-- ==== Sys2Proof/Word.lean ====
section
/-! DEFINITION. The fixed-width words of the core (00_scope.md R19, R21): the packet, the command code and the encoded address. -/

namespace Sys2Proof

/-- A 13-bit packet word; bit 12 is sent first (30_encoding.md R83). -/
abbrev Packet := BitVec 13

/-- A 6-bit command code, bit 5 sent first (20_memory.md R61). -/
abbrev Code := BitVec 6

/-- A 4-bit encoded address, bit 3 sent first (41_address_encoder.md R117). -/
abbrev Nibble := BitVec 4

end Sys2Proof
end

