-- ==== Sys2Proof/Syntax.lean ====
section
/-! DEFINITION. The instruction set: one constructor per row of spec/opcode_table.json. -/

namespace Sys2Proof

/-- The five commands, each with one operand, the device address as the integer presented to the core, legal or not
(00_scope.md R13, 44_protocol_sequencer.md R181 to R185), and the two wire symbols they are built from
(42_bit_transmitter.md R127, R128). -/
inductive Instr where
  /-- `light`, selector 0 (R181) -/
  | light (address : Int)
  /-- `fan-off`, selector 1 (R182) -/
  | fanOff (address : Int)
  /-- `fan-low`, selector 2 (R183) -/
  | fanLow (address : Int)
  /-- `fan-medium`, selector 3 (R184) -/
  | fanMedium (address : Int)
  /-- `fan-high`, selector 4 (R185) -/
  | fanHigh (address : Int)
  /-- `SEND_BIT_1` (R127) -/
  | sendBit1
  /-- `SEND_BIT_0` (R128) -/
  | sendBit0
  deriving DecidableEq, Repr

end Sys2Proof
end

