-- ==== Sys2Proof/WellFormed.lean ====
section
/-! DEFINITION. Which instructions the wire encodings can carry. -/

namespace Sys2Proof

/-- The packet's address field carries 0 to 15 (30_encoding.md R83, R89); a command for another address has no packet.
Such a command is still an instruction of the request port, and running it reports AddressOutOfRange (R192). -/
def addressFitsPacket (a : Int) : Bool := decide (0 ≤ a ∧ a ≤ 15)

/-- An instruction that some word of spec/opcode_table.json encodes. -/
def Instr.wellFormed : Instr → Bool
  | .light a => addressFitsPacket a
  | .fanOff a => addressFitsPacket a
  | .fanLow a => addressFitsPacket a
  | .fanMedium a => addressFitsPacket a
  | .fanHigh a => addressFitsPacket a
  | .sendBit1 => true
  | .sendBit0 => true

end Sys2Proof
end

