-- ==== Sys2Proof/Decode.lean ====
section
/-! DEFINITION. Decoding of the wire formats PKT13 and SYM (30_encoding.md R83, R84, R88, R89) and of the request format REQ (R81), and the encoders written from the same tables. -/

namespace Sys2Proof

/-- Why a word is no instruction. -/
inductive DecodeError where
  /-- a 13-bit word that matches no row of the code map (R89, R91) -/
  | notAPacket (w : Packet)
  /-- a bit sequence that is neither one symbol nor one packet long (R92) -/
  | noSuchLength (n : Nat)
  /-- a selector of 5 or more, which names no command (R81, R90) -/
  | noSuchCommand (selector : Nat)
  deriving DecidableEq, Repr

/-! ## The wire -/

/-- The bits of a packet in the order they are sent, `p[i] = pkt[12 - i]` (00_scope.md R21, 30_encoding.md R83). -/
def packetBits (w : Packet) : List Bool := (List.range 13).map fun i => w.getLsbD (12 - i)

/-- The word a bit sequence spells, first bit most significant (00_scope.md R21). -/
def wordOfBits (bits : List Bool) : Nat := bits.foldl (fun n b => 2 * n + b.toNat) 0

/-- `PacketDecode` (30_encoding.md R89): mask 0x187F, the five match values of R88, and the address `15 - uint(w[10:7])`. -/
def decodePacket (w : Packet) : Except DecodeError Instr :=
  let fixed := w &&& 0x187F#13
  let address : Int := 15 - ((w.extractLsb' 7 4).toNat : Int)
  if fixed = 0x107E#13 then .ok (.light address)
  else if fixed = 0x107D#13 then .ok (.fanOff address)
  else if fixed = 0x1077#13 then .ok (.fanLow address)
  else if fixed = 0x106F#13 then .ok (.fanMedium address)
  else if fixed = 0x105F#13 then .ok (.fanHigh address)
  else .error (.notAPacket w)

/-- The symbol a bit is sent as (30_encoding.md R84, R88). -/
def decodeSymbol (b : Bool) : Instr := if b then .sendBit1 else .sendBit0

/-- Decoding of any bit sequence in wire order: one bit is a symbol, thirteen are a packet (30_encoding.md R80, R92). -/
def decode (bits : List Bool) : Except DecodeError Instr :=
  match bits with
  | [b] => .ok (decodeSymbol b)
  | _ =>
    if bits.length = 13 then decodePacket (BitVec.ofNat 13 (wordOfBits bits))
    else .error (.noSuchLength bits.length)

/-- A row's match value with the complemented address in bits 10 to 7 (30_encoding.md R83, R88). -/
def packetWord (matchValue : Packet) (address : Int) : Packet :=
  matchValue ||| (BitVec.ofInt 13 (15 - address) <<< 7)

/-- The bits that encode a well-formed instruction, in wire order (30_encoding.md R88). -/
def encode : Instr → List Bool
  | .light a => packetBits (packetWord 0x107E a)
  | .fanOff a => packetBits (packetWord 0x107D a)
  | .fanLow a => packetBits (packetWord 0x1077 a)
  | .fanMedium a => packetBits (packetWord 0x106F a)
  | .fanHigh a => packetBits (packetWord 0x105F a)
  | .sendBit1 => [true]
  | .sendBit0 => [false]

/-! ## The request port -/

/-- The command a latched request names (30_encoding.md R81); any address goes with any selector. -/
def decodeRequest (selector : Nat) (address : Int) : Except DecodeError Instr :=
  match selector with
  | 0 => .ok (.light address)
  | 1 => .ok (.fanOff address)
  | 2 => .ok (.fanLow address)
  | 3 => .ok (.fanMedium address)
  | 4 => .ok (.fanHigh address)
  | n => .error (.noSuchCommand n)

/-- The selector and address that request an instruction; the symbols have no port (30_encoding.md R81, 42_bit_transmitter.md R134). -/
def encodeRequest : Instr → Option (Nat × Int)
  | .light a => some (0, a)
  | .fanOff a => some (1, a)
  | .fanLow a => some (2, a)
  | .fanMedium a => some (3, a)
  | .fanHigh a => some (4, a)
  | .sendBit1 => none
  | .sendBit0 => none

/-! ## The host's numbering -/

/-- The instruction of a word of spec/opcode_table.json. A row of format SYM has one bit, so one byte; a row of format
PKT13 has thirteen bits, so two bytes, bit 12 the first on the wire (DESIGN CHOICE, log 10). -/
def decodeTableWord (nbits w : Nat) : Option Instr :=
  if nbits = 0 then none
  else if nbits ≤ 8 then
    if w < 2 then (decode [w == 1]).toOption else none
  else if nbits ≤ 16 then
    if w < 2 ^ 13 then (decode (packetBits (BitVec.ofNat 13 w))).toOption else none
  else none

end Sys2Proof
end

