-- ==== Sys2Proof/Config.lean ====
section
/-! DEFINITION. The implementation parameters of 00_scope.md R19, their defaults, the constraints R19 puts on them, and the durations R19 and R20 derive from them. -/

namespace Sys2Proof

/-- The parameters fixed when the hardware is built (00_scope.md R19, 70_reset_and_hazards.md R231). Durations are in microseconds. -/
structure Config where
  /-- `R`, packets per transmission -/
  reps : Nat
  /-- `T_LONG_US` -/
  tLongUs : Nat
  /-- `T_SHORT_US` -/
  tShortUs : Nat
  /-- `T_GAP_US` -/
  tGapUs : Nat
  /-- `TOL_US` -/
  tolUs : Nat
  /-- `CLK_MHZ`, clock cycles per microsecond -/
  clkMhz : Nat
  /-- `ADDR_W`, width of `req_addr` and `addr_q` -/
  addrW : Nat
  /-- `CMD_W`, width of `req_cmd` and `cmd_q` -/
  cmdW : Nat
  /-- `TIMER_W`, width of `timer` -/
  timerW : Nat
  /-- `REP_W`, width of `rep_cnt` -/
  repW : Nat
  deriving DecidableEq, Repr

namespace Config

/-- The "default" column of 00_scope.md R19. -/
def default : Config where
  reps := 5
  tLongUs := 775
  tShortUs := 370
  tGapUs := 10000
  tolUs := 100
  clkMhz := 1
  addrW := 32
  cmdW := 3
  timerW := 14
  repW := 3

/-- `N_LONG` (R19). -/
def nLong (c : Config) : Nat := c.tLongUs * c.clkMhz

/-- `N_SHORT` (R19). -/
def nShort (c : Config) : Nat := c.tShortUs * c.clkMhz

/-- `N_GAP` (R19). -/
def nGap (c : Config) : Nat := c.tGapUs * c.clkMhz

/-- `T_SYM_US` (R20). -/
def tSymUs (c : Config) : Nat := c.tLongUs + c.tShortUs

/-- `N_SYM` (R20). -/
def nSym (c : Config) : Nat := c.nLong + c.nShort

/-- One packet in microseconds, `PKT_LEN * T_SYM_US` (R20). -/
def tPacketUs (c : Config) : Nat := 13 * c.tSymUs

/-- One repetition, packet plus gap, in microseconds (R20). -/
def tRepUs (c : Config) : Nat := c.tPacketUs + c.tGapUs

/-- One transmission in microseconds (R20). -/
def tTransmissionUs (c : Config) : Nat := c.reps * c.tRepUs

/-- `P = 13 * N_SYM + N_GAP`, one repetition in cycles (44_protocol_sequencer.md R179). -/
def nRep (c : Config) : Nat := 13 * c.nSym + c.nGap

/-- The cycles spent in TRANSMITTING, `R * (13 * N_SYM + N_GAP)` (43_packet_framer.md R145). -/
def nTransmission (c : Config) : Nat := c.reps * c.nRep

/-- The constraints 00_scope.md R19 puts on a build: `R >= 1`, `CLK_MHZ >= 1`, `ADDR_W >= 6`, `CMD_W >= 3`,
`TIMER_W` and `REP_W` wide enough, a gap longer than one symbol; and, what 42_bit_transmitter.md R130 rests on, a
short phase of at least one microsecond whose accepted window ends below the long phase's (DEDUCED, log 16). -/
abbrev Valid (c : Config) : Prop :=
  (1 ≤ c.reps ∧ 1 ≤ c.clkMhz ∧ 1 ≤ c.tShortUs ∧ c.tShortUs + c.tolUs < c.tLongUs - c.tolUs ∧ c.tSymUs < c.tGapUs) ∧
  (6 ≤ c.addrW ∧ 3 ≤ c.cmdW ∧ 1 ≤ c.repW ∧ c.reps ≤ 2 ^ c.repW ∧ max c.nLong c.nGap ≤ 2 ^ c.timerW)

end Config
end Sys2Proof
end

