-- ==== Sys2Proof/Machine/State.lean ====
section
/-! DEFINITION. The state of the core: the registers of 10_state.md R36, the build parameters, the port values to come, and the reasons a step can stop. -/

namespace Sys2Proof.Machine

/-- The sequencer's states (10_state.md R37); the encodings 5 to 7 are unrepresentable (70_reset_and_hazards.md R236). -/
inductive SeqState where
  | idle
  | validating
  | transmitting
  | rejected
  | done
  deriving DecidableEq, Repr

/-- The phases inside TRANSMITTING (10_state.md R38): the low part of a symbol, its high part, the gap. -/
inductive TxPhase where
  | low
  | high
  | gap
  deriving DecidableEq, Repr

/-- The result of a request (30_encoding.md R86, 60_exceptions.md R197); code 3 is unrepresentable. -/
inductive RespCode where
  | ok
  | commandNotFound
  | addressOutOfRange
  deriving DecidableEq, Repr

/-- The input ports in one cycle (10_state.md R31, R34). `reqAddr` and `reqCmd` are numbers; the port carries their low
`ADDR_W` and `CMD_W` bits (log 3). -/
structure PortIn where
  rst : Bool
  reqValid : Bool
  reqAddr : Int
  reqCmd : Nat
  deriving DecidableEq, Repr

/-- The registers of 10_state.md R36, with the build parameters and the port values to come, which are parameters of
the spec's step and no registers (00_scope.md R12; log 1, log 2). -/
structure State where
  /-- the build's parameters (00_scope.md R19); no step writes them (70_reset_and_hazards.md R231) -/
  build : Config
  /-- `seq_state` (R37) -/
  seqState : SeqState
  /-- `tx_phase` (R38) -/
  txPhase : TxPhase
  /-- `pkt` (R39) -/
  pkt : Packet
  /-- `bit_idx` (R40) -/
  bitIdx : Fin 13
  /-- `rep_cnt` (R41), the number its `REP_W` bits denote -/
  repCnt : Nat
  /-- `timer` (R42), the number its `TIMER_W` bits denote -/
  timer : Nat
  /-- `line` (R43), true is high -/
  line : Bool
  /-- `addr_q` (R44), the integer its `ADDR_W` bits denote -/
  addrQ : Int
  /-- `cmd_q` (R44), the number its `CMD_W` bits denote -/
  cmdQ : Nat
  /-- `resp_code` (R45) -/
  respCode : RespCode
  /-- the ports in this cycle (the head) and the cycles to come; past the end every port is 0 (log 2) -/
  inputs : List PortIn
  deriving DecidableEq, Repr

/-- Why the machine stops. -/
inductive Fault where
  /-- Raised by `step` in a state with `seq_state = TRANSMITTING` and `rep_cnt >= R`, which no run from reset reaches:
  the spec gives it no step (93_implementation_defined.md U4, 70_reset_and_hazards.md R236). Safe (log 5). -/
  | unreachableRepCnt
  deriving DecidableEq, Repr

/-- Why an instruction is given no meaning. -/
inductive Refusal where
  /-- Raised by an arm of `exec` for an instruction of the opcode table that has no meaning yet. Safe. -/
  | notModelled (mnemonic : String)
  /-- Raised by SEND_BIT_1 and SEND_BIT_0 run where no symbol is in progress: "the hardware offers no single-symbol
  operation" (42_bit_transmitter.md R134). `step` never runs them there. Safe (log 8). -/
  | noSymbolInProgress
  deriving DecidableEq, Repr

/-- The reset state (10_state.md R55) of the default build (00_scope.md R19; DESIGN CHOICE, log 1), with nothing
presented on the ports (DESIGN CHOICE, log 2). -/
def State.reset : State where
  build := Config.default
  seqState := .idle
  txPhase := .low
  pkt := 0
  bitIdx := 0
  repCnt := 0
  timer := 0
  line := false
  addrQ := 0
  cmdQ := 0
  respCode := .ok
  inputs := []

end Sys2Proof.Machine
end

