-- ==== Sys2Proof/Machine/Timing.lean ====
section
/-! DEFINITION. Phase lengths (42_bit_transmitter.md R131, 43_packet_framer.md R144) and the conformance predicates for measured waveforms (R130, R144, 70_reset_and_hazards.md R232). -/

namespace Sys2Proof.Machine

/-- Low phase of a symbol in microseconds (42_bit_transmitter.md R127, R128). -/
def lowUs (c : Config) (b : Bool) : Nat := if b then c.tLongUs else c.tShortUs

/-- High phase of a symbol in microseconds (R127, R128). -/
def highUs (c : Config) (b : Bool) : Nat := if b then c.tShortUs else c.tLongUs

/-- `LowCycles(b)` (R131). -/
def lowCycles (c : Config) (b : Bool) : Nat := if b then c.nLong else c.nShort

/-- `HighCycles(b)` (R131). -/
def highCycles (c : Config) (b : Bool) : Nat := if b then c.nShort else c.nLong

/-- The length of a phase in cycles, `b` the bit in progress (10_state.md R53). -/
def phaseCycles (c : Config) (b : Bool) : TxPhase → Nat
  | .low => lowCycles c b
  | .high => highCycles c b
  | .gap => c.nGap

/-- The last cycle of a phase of `n` cycles, `timer = n - 1` (10_state.md R42). -/
def isLastCycle (timer n : Nat) : Bool := timer + 1 == n

/-- `timer + 1` in `TIMER_W` bits (10_state.md R36, R42; no reachable state wraps it, log 3). -/
def timerNext (c : Config) (timer : Nat) : Nat := (timer + 1) % 2 ^ c.timerW

/-- `PhaseConforms(nominal, measured)`, in microseconds, bounds included (42_bit_transmitter.md R130). That `measured` is a
whole number is the model's choice: the spec gives it no type (DESIGN CHOICE, log 17). -/
def phaseConforms (c : Config) (nominal measured : Nat) : Bool :=
  decide (nominal ≤ measured + c.tolUs ∧ measured ≤ nominal + c.tolUs)

/-- A measured symbol conforms when both its phases do (R130; whole microseconds, log 17). -/
def symbolConforms (c : Config) (b : Bool) (low high : Nat) : Bool :=
  phaseConforms c (lowUs c b) low && phaseConforms c (highUs c b) high

/-- `GapConforms(measured)`: longer than one symbol, no upper bound (43_packet_framer.md R144; whole microseconds, log 17). -/
def gapConforms (c : Config) (measured : Nat) : Bool := decide (c.tSymUs < measured)

/-- A clock off by the fraction `num / den` keeps a phase of `nominal` microseconds within the tolerance
(42_bit_transmitter.md R131, 70_reset_and_hazards.md R232). The fraction's size as a quotient of whole numbers is the
model's form of it (DESIGN CHOICE, log 17). -/
def clockErrorFits (c : Config) (nominal num den : Nat) : Bool := decide (nominal * num ≤ c.tolUs * den)

end Sys2Proof.Machine
end

