-- ==== Sys2Proof/Machine/Operands.lean ====
section
/-! DEFINITION. Operands: the Command Table (20_memory.md R60 to R63, 40_command_table.md), the Address Encoder (41_address_encoder.md), packet assembly (30_encoding.md R83, R87), and how the request port carries and samples them (R81, R82, 41_address_encoder.md R119). -/

namespace Sys2Proof.Machine

/-! ## Command Table -/

/-- `RomRead(sel)` (20_memory.md R61), defined for selectors 0 to 4 only (R62). A constant of the design (R63). -/
def romRead (sel : Nat) : Option Code :=
  match sel with
  | 0 => some 0b111110#6
  | 1 => some 0b111101#6
  | 2 => some 0b110111#6
  | 3 => some 0b101111#6
  | 4 => some 0b011111#6
  | _ => none

/-- `CmdValid(sel)` (40_command_table.md R101). -/
def cmdValid (sel : Nat) : Bool := decide (sel ≤ 4)

/-- `SelOfName(name)` (30_encoding.md R82): exact match, every other string to 7. -/
def selOfName (name : String) : Nat :=
  if name = "light" then 0
  else if name = "fan-off" then 1
  else if name = "fan-low" then 2
  else if name = "fan-medium" then 3
  else if name = "fan-high" then 4
  else 7

/-- `lookup(name)` (40_command_table.md R100); `none` is NotFound. -/
def lookup (name : String) : Option Code := romRead (selOfName name)

/-! ## Address Encoder -/

/-- `AddrValid(a)`, on the whole integer (41_address_encoder.md R116). -/
def addrValid (a : Int) : Bool := decide (0 ≤ a ∧ a ≤ 15)

/-- `AddrEnc(a) = ~a[3:0]`, meaningful when `addrValid a` (41_address_encoder.md R117). -/
def addrEnc (a : Int) : Nibble := ~~~(BitVec.ofInt 4 a)

/-- `encode(address)` (41_address_encoder.md R115); `none` is OutOfRange. -/
def encodeAddress (a : Int) : Option Nibble := if addrValid a then some (addrEnc a) else none

/-! ## Packet -/

/-- `BuildPacket(address_bits, command_bits)`: `1,0`, the address bits, `1`, the command bits (43_packet_framer.md R141). -/
def buildPacket (address : Nibble) (code : Code) : Packet := 0b10#2 ++ address ++ 0b1#1 ++ code

/-- The bit at position `i`, `pkt[12 - i]` (10_state.md R39, R40). -/
def packetBit (p : Packet) (i : Fin 13) : Bool := p.getLsbD (12 - i.val)

/-- `p` with the bit at position `i` set to `b`. -/
def setPacketBit (p : Packet) (i : Fin 13) (b : Bool) : Packet :=
  let here : Packet := 1#13 <<< (12 - i.val)
  if b then p ||| here else p &&& ~~~here

/-! ## The request port -/

/-- The integer that the low `ADDR_W` bits of `a` denote in two's complement (10_state.md R31, R44). -/
def sampleAddr (c : Config) (a : Int) : Int := a.bmod (2 ^ c.addrW)

/-- The number that the low `CMD_W` bits of `n` denote (10_state.md R31, R44). -/
def sampleCmd (c : Config) (n : Nat) : Nat := n % 2 ^ c.cmdW

/-- Whether `ADDR_W` bits of two's complement can hold `a`. -/
def addrRepresentable (c : Config) (a : Int) : Bool :=
  decide (-(2 ^ (c.addrW - 1) : Int) ≤ a ∧ a < (2 ^ (c.addrW - 1) : Int))

/-- What a requester presents for address `a`: -1 in place of an integer the port cannot hold (41_address_encoder.md R119 e). -/
def presentAddr (c : Config) (a : Int) : Int := if addrRepresentable c a then a else -1

/-- The ports with no request and no reset. -/
def PortIn.quiet : PortIn where
  rst := false
  reqValid := false
  reqAddr := 0
  reqCmd := 0

/-- The ports in the cycle in which `SENDSEL a, sel` presents its request (30_encoding.md R94). -/
def PortIn.sendSel (c : Config) (a : Int) (sel : Nat) : PortIn where
  rst := false
  reqValid := true
  reqAddr := presentAddr c a
  reqCmd := sel

/-- The ports in the cycle in which `SEND a, name` presents its request (30_encoding.md R94). -/
def PortIn.send (c : Config) (a : Int) (name : String) : PortIn := PortIn.sendSel c a (selOfName name)

/-- The request word, `req_valid`, `req_cmd`, `req_addr` from the left (10_state.md R48, 30_encoding.md R80, R81). -/
def PortIn.requestWord (c : Config) (p : PortIn) : BitVec (1 + c.cmdW + c.addrW) :=
  BitVec.ofBool p.reqValid ++ BitVec.ofNat c.cmdW p.reqCmd ++ BitVec.ofInt c.addrW p.reqAddr

end Sys2Proof.Machine
end

