-- ==== Sys2Proof/Machine/Ops.lean ====
section
/-! DEFINITION. The named register operations every meaning is written with: the environment's cycle, reset, acceptance, raising an error and returning from one, the line operations, and the phase changes of TRANSMITTING. -/

namespace Sys2Proof.Machine

/-! ## The environment -/

/-- The ports in the current cycle (00_scope.md R23); past the schedule's end nothing is presented (log 2). -/
def State.ports (s : State) : PortIn := s.inputs.headD PortIn.quiet

/-- The next cycle's ports become current. -/
def State.nextCycle (s : State) : State := { s with inputs := s.inputs.tail }

/-- The reset state (10_state.md R55) of the same build; the environment goes on (70_reset_and_hazards.md R220). -/
def State.applyReset (s : State) : State := { State.reset with build := s.build, inputs := s.inputs }

/-! ## Requests and responses -/

/-- Acceptance: the operands are latched together (10_state.md R44, 44_protocol_sequencer.md R171). -/
def State.latchRequest (p : PortIn) (s : State) : State :=
  { s with addrQ := sampleAddr s.build p.reqAddr, cmdQ := sampleCmd s.build p.reqCmd, seqState := .validating }

/-- IDLE: a request presented is accepted, otherwise nothing is written (44_protocol_sequencer.md R171). -/
def State.acceptRequest (p : PortIn) (s : State) : State := if p.reqValid then s.latchRequest p else s

/-- The two errors (60_exceptions.md R190). -/
inductive ErrorKind where
  | commandNotFound
  | addressOutOfRange
  deriving DecidableEq, Repr

/-- `code(E)` (60_exceptions.md R191, R192). -/
def ErrorKind.respCode : ErrorKind → RespCode
  | .commandNotFound => .commandNotFound
  | .addressOutOfRange => .addressOutOfRange

/-- `raise E`: the code is recorded and the sequencer goes to REJECTED; nothing else is written (60_exceptions.md R193). -/
def State.raise (e : ErrorKind) (s : State) : State := { s with respCode := e.respCode, seqState := .rejected }

/-- REJECTED and DONE go to IDLE: the return from an error and from a completed request (44_protocol_sequencer.md R176, 60_exceptions.md R196). -/
def State.returnToIdle (s : State) : State := { s with seqState := .idle }

/-- Validation succeeded: the packet is written whole and every register TRANSMITTING reads is initialised (44_protocol_sequencer.md R172). -/
def State.startTransmission (p : Packet) (s : State) : State :=
  { s with pkt := p, bitIdx := 0, repCnt := 0, txPhase := .low, timer := 0, seqState := .transmitting }

/-! ## The line -/

/-- `LineWrite(v)` (00_scope.md R22). -/
def State.lineWrite (v : Bool) (s : State) : State := { s with line := v }

/-- `set_high()` (10_state.md R33). -/
def State.setHigh (s : State) : State := s.lineWrite true

/-- `set_low()` (10_state.md R33). -/
def State.setLow (s : State) : State := s.lineWrite false

/-! ## Phases -/

/-- A cycle of a phase that is not its last (10_state.md R42). -/
def State.countCycle (s : State) : State := { s with timer := timerNext s.build s.timer }

/-- A phase is entered with `timer` 0 (10_state.md R42). -/
def State.enterPhase (ph : TxPhase) (s : State) : State := { s with txPhase := ph, timer := 0 }

/-- The last cycle of PH_LOW (44_protocol_sequencer.md R173). -/
def State.endLow (s : State) : State := s.setHigh.enterPhase .high

/-- The last cycle of PH_HIGH: the next bit's PH_LOW, or the gap after the 13th bit (44_protocol_sequencer.md R174). -/
def State.endHigh (s : State) : State :=
  if s.bitIdx = 12 then s.setLow.enterPhase .gap
  else { s.setLow.enterPhase .low with bitIdx := s.bitIdx + 1 }

/-- The end of the last gap: the transmission is complete (44_protocol_sequencer.md R175). -/
def State.complete (s : State) : State := { s with timer := 0, respCode := .ok, seqState := .done }

/-- The end of any other gap: the next copy starts (44_protocol_sequencer.md R175). -/
def State.nextCopy (s : State) : State := { s.enterPhase .low with repCnt := s.repCnt + 1, bitIdx := 0 }

/-- The last cycle of PH_GAP (44_protocol_sequencer.md R175, 43_packet_framer.md R146). -/
def State.endGap (s : State) : State := if s.repCnt + 1 = s.build.reps then s.complete else s.nextCopy

/-- The packet bit in progress, `pkt[12 - bit_idx]` (44_protocol_sequencer.md R170). -/
def State.currentBit (s : State) : Bool := packetBit s.pkt s.bitIdx

end Sys2Proof.Machine
end

