-- ==== Sys2Proof/Machine/Commands.lean ====
section
/-! DEFINITION. The five commands (44_protocol_sequencer.md R181 to R185) in the cycle that runs them, VALIDATING (R172). -/

namespace Sys2Proof.Machine

/-- VALIDATING for the command of selector `sel` and the address `a` (44_protocol_sequencer.md R172): the command is
checked first, then the address (R161); a valid request commits its packet and starts the transmission. -/
def issue (sel : Nat) (a : Int) (s : State) : Host.Outcome State Fault Refusal :=
  match romRead sel with
  | none => .next (s.raise .commandNotFound)
  | some code =>
    if addrValid a then .next (s.startTransmission (buildPacket (addrEnc a) code))
    else .next (s.raise .addressOutOfRange)

/-- `light` (44_protocol_sequencer.md R181, 40_command_table.md R102). -/
def execLight (a : Int) (s : State) : Host.Outcome State Fault Refusal := issue 0 a s

/-- `fan-off` (44_protocol_sequencer.md R182, 40_command_table.md R103). -/
def execFanOff (a : Int) (s : State) : Host.Outcome State Fault Refusal := issue 1 a s

/-- `fan-low` (44_protocol_sequencer.md R183, 40_command_table.md R104). -/
def execFanLow (a : Int) (s : State) : Host.Outcome State Fault Refusal := issue 2 a s

/-- `fan-medium` (44_protocol_sequencer.md R184, 40_command_table.md R105). -/
def execFanMedium (a : Int) (s : State) : Host.Outcome State Fault Refusal := issue 3 a s

/-- `fan-high` (44_protocol_sequencer.md R185, 40_command_table.md R106). -/
def execFanHigh (a : Int) (s : State) : Host.Outcome State Fault Refusal := issue 4 a s

end Sys2Proof.Machine
end

