-- ==== Sys2Proof/Machine/Symbols.lean ====
section
/-! DEFINITION. The two wire symbols (42_bit_transmitter.md R127, R128), one cycle at a time (R133, 44_protocol_sequencer.md R173, R174). -/

namespace Sys2Proof.Machine

/-- One cycle of PH_LOW of a symbol of value `b` (44_protocol_sequencer.md R173). -/
def lowCycle (b : Bool) (s : State) : State :=
  if isLastCycle s.timer (lowCycles s.build b) then s.endLow else s.countCycle

/-- One cycle of PH_HIGH of a symbol of value `b` (44_protocol_sequencer.md R174). -/
def highCycle (b : Bool) (s : State) : State :=
  if isLastCycle s.timer (highCycles s.build b) then s.endHigh else s.countCycle

/-- One cycle of the symbol in progress, of value `b`. A symbol exists only inside a transmission: "the hardware offers
no single-symbol operation" (42_bit_transmitter.md R134; log 8). -/
def symbolCycle (b : Bool) (s : State) : Host.Outcome State Fault Refusal :=
  match s.seqState, s.txPhase with
  | .transmitting, .low => .next (lowCycle b s)
  | .transmitting, .high => .next (highCycle b s)
  | _, _ => .refused .noSymbolInProgress

/-- `SEND_BIT_1` (42_bit_transmitter.md R127). -/
def execSendBit1 (s : State) : Host.Outcome State Fault Refusal := symbolCycle true s

/-- `SEND_BIT_0` (42_bit_transmitter.md R128). -/
def execSendBit0 (s : State) : Host.Outcome State Fault Refusal := symbolCycle false s

end Sys2Proof.Machine
end

