-- ==== Sys2Proof/Machine/Dispatch.lean ====
section
/-! DEFINITION. The meaning of each instruction, one arm per constructor. -/

namespace Sys2Proof.Machine

-- One cycle of the core with the instruction in control (log 7).
def exec (i : Instr) (s : State) : Host.Outcome State Fault Refusal :=
  match i with
  | .light a => Sys2Proof.Machine.execLight a s
  | .fanOff a => Sys2Proof.Machine.execFanOff a s
  | .fanLow a => Sys2Proof.Machine.execFanLow a s
  | .fanMedium a => Sys2Proof.Machine.execFanMedium a s
  | .fanHigh a => Sys2Proof.Machine.execFanHigh a s
  | .sendBit1 => Sys2Proof.Machine.execSendBit1 s
  | .sendBit0 => Sys2Proof.Machine.execSendBit0 s

end Sys2Proof.Machine
end

