-- ==== Sys2Proof/Machine/Fetch.lean ====
section
/-! DEFINITION. What is in control of a cycle (44_protocol_sequencer.md R170), which is where the core finds its next instruction, and the placing of an instruction there. -/

namespace Sys2Proof.Machine

/-- What a cycle does. -/
inductive Control where
  /-- `rst = 1` (70_reset_and_hazards.md R220) -/
  | reset
  /-- IDLE: look at the request ports (44_protocol_sequencer.md R171) -/
  | await
  /-- the latched request's command in VALIDATING, or the symbol of the packet bit in PH_LOW and PH_HIGH -/
  | run (i : Instr)
  /-- VALIDATING with a selector that names no command (60_exceptions.md R191) -/
  | unknownCommand
  /-- PH_GAP (44_protocol_sequencer.md R175) -/
  | gap
  /-- REJECTED and DONE (44_protocol_sequencer.md R176) -/
  | finish
  /-- a state the spec gives no step (93_implementation_defined.md U4; log 5) -/
  | stuck
  deriving DecidableEq, Repr

/-- The case analysis of `Step` on `rst`, `seq_state` and `tx_phase` (44_protocol_sequencer.md R170). -/
def State.control (s : State) : Control :=
  if s.ports.rst then .reset
  else
    match s.seqState with
    | .idle => .await
    | .validating =>
      match decodeRequest s.cmdQ s.addrQ with
      | .ok i => .run i
      | .error _ => .unknownCommand
    | .transmitting =>
      if s.build.reps ≤ s.repCnt then .stuck
      else
        match s.txPhase with
        | .low => .run (decodeSymbol s.currentBit)
        | .high => .run (decodeSymbol s.currentBit)
        | .gap => .gap
    | .rejected => .finish
    | .done => .finish

/-- The schedule with no reset in the current cycle. -/
def withoutReset (inputs : List PortIn) : List PortIn :=
  match inputs with
  | [] => []
  | p :: rest => { p with rst := false } :: rest

/-- A request as acceptance leaves it: latched, VALIDATING next (log 9). -/
def State.placeRequest (sel : Nat) (a : Int) (s : State) : State :=
  { s with cmdQ := sel, addrQ := a, seqState := .validating, inputs := withoutReset s.inputs }

/-- A symbol about to start as the packet bit in progress of a first copy (log 9). -/
def State.placeSymbol (b : Bool) (s : State) : State :=
  { s with pkt := setPacketBit s.pkt s.bitIdx b, seqState := .transmitting, txPhase := .low, timer := 0, repCnt := 0,
           inputs := withoutReset s.inputs }

/-- The instruction placed where the next cycle finds it. -/
def State.placeInstr (i : Instr) (s : State) : State :=
  match i with
  | .light a => s.placeRequest 0 a
  | .fanOff a => s.placeRequest 1 a
  | .fanLow a => s.placeRequest 2 a
  | .fanMedium a => s.placeRequest 3 a
  | .fanHigh a => s.placeRequest 4 a
  | .sendBit1 => s.placeSymbol true
  | .sendBit0 => s.placeSymbol false

end Sys2Proof.Machine
end

