-- ==== Sys2Proof/Machine/Flags.lean ====
section
/-! DEFINITION. Status flags and output ports, all functions of the state (00_scope.md R23, 10_state.md R32, R33, R47, R48), and the bit encodings of the enumerated registers (R37, R38, 30_encoding.md R86). -/

namespace Sys2Proof.Machine

/-- The encoding of `seq_state` (10_state.md R37). -/
def SeqState.code : SeqState → BitVec 3
  | .idle => 0
  | .validating => 1
  | .transmitting => 2
  | .rejected => 3
  | .done => 4

/-- The encoding of `tx_phase` (10_state.md R38). -/
def TxPhase.code : TxPhase → BitVec 2
  | .low => 0
  | .high => 1
  | .gap => 2

/-- The encoding of `resp_code` (30_encoding.md R86). -/
def RespCode.code : RespCode → BitVec 2
  | .ok => 0
  | .commandNotFound => 1
  | .addressOutOfRange => 2

/-- `req_ready` (10_state.md R31). -/
def State.reqReady (s : State) : Bool := s.seqState == .idle

/-- `busy` (10_state.md R32). -/
def State.busy (s : State) : Bool := !(s.seqState == .idle)

/-- `resp_valid` (10_state.md R32). -/
def State.respValid (s : State) : Bool := s.seqState == .rejected || s.seqState == .done

/-- `line_out` (10_state.md R33). -/
def State.lineOut (s : State) : Bool := s.line

/-- The output ports in one cycle (10_state.md R31 to R33). -/
structure PortOut where
  reqReady : Bool
  busy : Bool
  respValid : Bool
  respCode : RespCode
  lineOut : Bool
  deriving DecidableEq, Repr

/-- The output ports as functions of the state alone (00_scope.md R23). -/
def State.outputs (s : State) : PortOut where
  reqReady := s.reqReady
  busy := s.busy
  respValid := s.respValid
  respCode := s.respCode
  lineOut := s.lineOut

/-- The response a requester may rely on: `resp_code` in a cycle with `resp_valid = 1`, nothing otherwise (10_state.md R32, R45). -/
def State.response (s : State) : Option RespCode := if s.respValid then some s.respCode else none

/-- The response word, `busy`, `req_ready`, `resp_valid`, `resp_code` from the left (10_state.md R48). -/
def State.responseWord (s : State) : BitVec 5 :=
  BitVec.ofBool s.busy ++ BitVec.ofBool s.reqReady ++ BitVec.ofBool s.respValid ++ s.respCode.code

end Sys2Proof.Machine
end

