-- ==== Sys2Proof/Machine/Framer.lean ====
section
/-! DEFINITION. The inter-packet gap and the repetition counter (43_packet_framer.md R143 to R146, 44_protocol_sequencer.md R175). -/

namespace Sys2Proof.Machine

/-- One cycle of PH_GAP (44_protocol_sequencer.md R175). -/
def gapCycle (s : State) : State :=
  if isLastCycle s.timer s.build.nGap then s.endGap else s.countCycle

end Sys2Proof.Machine
end

