-- ==== Sys2Proof/Machine/Step.lean ====
section
/-! DEFINITION. One step of the machine: one clock cycle, `Step(S, I)` of 44_protocol_sequencer.md R170. -/

namespace Sys2Proof.Machine

/-- One cycle (44_protocol_sequencer.md R170): what is in control is read from the state and the current ports, and acts
on the state whose next ports are the following cycle's (00_scope.md R23). -/
def step (s : State) : Host.Outcome State Fault Refusal :=
  match s.control with
  | .reset => .next s.nextCycle.applyReset
  | .await => .next (s.nextCycle.acceptRequest s.ports)
  | .run i => exec i s.nextCycle
  | .unknownCommand => .next (s.nextCycle.raise .commandNotFound)
  | .gap => .next (gapCycle s.nextCycle)
  | .finish => .next s.nextCycle.returnToIdle
  | .stuck => .fault .unreachableRepCnt

/-- The state with the instruction of a table word placed where the next step finds it; unchanged if the word is no
instruction (log 9, log 10). -/
def State.withFetchWord (s : State) (nbits w : Nat) : State :=
  match decodeTableWord nbits w with
  | some i => s.placeInstr i
  | none => s

end Sys2Proof.Machine
end

