-- ==== Sys2Proof/Machine/CallLevel.lean ====
section
/-! DEFINITION. The call level: segment traces, line operations and `SendCommand` (42_bit_transmitter.md, 43_packet_framer.md R147, R148, 44_protocol_sequencer.md R160, R163). -/

namespace Sys2Proof.Machine

/-- A segment: a level (true is high) and a duration in microseconds (43_packet_framer.md R147). -/
abbrev Segment := Bool × Nat

/-- `SymSegs(b)`: the segments `send_bit(b)` adds to a trace (42_bit_transmitter.md R127, R128). -/
def symSegs (c : Config) (b : Bool) : List Segment := [(false, lowUs c b), (true, highUs c b)]

/-- The segments of a bit sequence sent back to back (42_bit_transmitter.md R132). -/
def bitsSegs (c : Config) (bits : List Bool) : List Segment := bits.flatMap (symSegs c)

/-- `PacketSegs(p)`: thirteen symbols, in wire order (43_packet_framer.md R142, R147). -/
def packetSegs (c : Config) (p : Packet) : List Segment := bitsSegs c (packetBits p)

/-- `GapSeg` (43_packet_framer.md R144). -/
def gapSegs (c : Config) : List Segment := [(false, c.tGapUs)]

/-- One copy of the packet and its gap. -/
def copySegs (c : Config) (p : Packet) : List Segment := packetSegs c p ++ gapSegs c

/-- `TransmissionSegs(p)`: `R` copies, each followed by a gap (43_packet_framer.md R143, R147). -/
def transmissionSegs (c : Config) (p : Packet) : List Segment := (List.replicate c.reps (copySegs c p)).flatten

/-- `transmit(address_bits, command_bits)`, the trace it makes; it always succeeds (43_packet_framer.md R140, R145). -/
def transmit (c : Config) (address : Nibble) (code : Code) : List Segment :=
  transmissionSegs c (buildPacket address code)

/-- `SendCommand(address, command)` (44_protocol_sequencer.md R160, R163): the result and the trace, empty when nothing
is sent. The command is looked up before the address is encoded (R161). -/
def sendCommand (c : Config) (address : Int) (command : String) : RespCode × List Segment :=
  match lookup command with
  | none => (.commandNotFound, [])
  | some code =>
    match encodeAddress address with
    | none => (.addressOutOfRange, [])
    | some a => (.ok, transmit c a code)

/-- Total duration of a trace in microseconds. -/
def segsUs (segs : List Segment) : Nat := (segs.map Prod.snd).sum

/-- Time a trace spends high, in microseconds (43_packet_framer.md R150). -/
def segsHighUs (segs : List Segment) : Nat := ((segs.filter Prod.fst).map Prod.snd).sum

/-- The number of one-bits in a bit sequence (43_packet_framer.md R150). -/
def onesIn (bits : List Bool) : Nat := bits.count true

/-- The two operations of the line (10_state.md R33). -/
inductive LineOp where
  | setHigh
  | setLow
  deriving DecidableEq, Repr

/-- The line operations of a trace that starts at time `t`: `set_high()` at the start of each high segment, `set_low()`
at its end (43_packet_framer.md R147). -/
def lineOpsFrom (t : Nat) : List Segment → List (LineOp × Nat)
  | [] => []
  | (true, d) :: rest => (.setHigh, t) :: (.setLow, t + d) :: lineOpsFrom (t + d) rest
  | (false, d) :: rest => lineOpsFrom (t + d) rest

/-- The levels of a trace, one per clock cycle: each duration `d` becomes `d * CLK_MHZ` cycles (44_protocol_sequencer.md R178). -/
def segsCycles (c : Config) (segs : List Segment) : List Bool :=
  segs.flatMap fun seg => List.replicate (seg.2 * c.clkMhz) seg.1

end Sys2Proof.Machine
end

