-- ==== Sys2Proof/Safety.lean ====
section
/-! DEFINITION. Runs, traces and the invariant: the terms in which statements about the machine are made. -/

namespace Sys2Proof.Machine

/-- `n` cycles. -/
def runCycles : Nat → State → Host.Outcome State Fault Refusal
  | 0, s => .next s
  | n + 1, s =>
    match step s with
    | .next t => runCycles n t
    | .fault r => .fault r
    | .refused r => .refused r

/-- What `f` shows in each of the next `n` cycles, the current one first; shorter if the machine stops. -/
def traceOf {α : Type} (f : State → α) : Nat → State → List α
  | 0, _ => []
  | n + 1, s =>
    f s ::
      match step s with
      | .next t => traceOf f n t
      | .fault _ => []
      | .refused _ => []

/-- `line_out` in each of the next `n` cycles, the recording of 60_exceptions.md R207. -/
def lineTrace (n : Nat) (s : State) : List Bool := traceOf State.lineOut n s

/-- No reset in the next `n` cycles. -/
def State.NoReset (n : Nat) (s : State) : Prop := ∀ p ∈ s.inputs.take n, p.rst = false

/-- The registers with a width parameter hold numbers of that width (00_scope.md R19, 10_state.md R36). -/
structure State.FitsWidths (s : State) : Prop where
  addrQ : addrRepresentable s.build s.addrQ = true
  cmdQ : s.cmdQ < 2 ^ s.build.cmdW
  timer : s.timer < 2 ^ s.build.timerW
  repCnt : s.repCnt < 2 ^ s.build.repW

/-- Only a validated request is on the wire (10_state.md R54). -/
structure State.ValidatedPacket (s : State) : Prop where
  preamble : s.pkt.extractLsb' 11 2 = 0b10#2
  separator : s.pkt.getLsbD 6 = true
  address : s.pkt.extractLsb' 7 4 = ~~~(BitVec.ofInt 4 s.addrQ)
  addressRange : 0 ≤ s.addrQ ∧ s.addrQ ≤ 15
  selector : s.cmdQ ≤ 4
  command : some (s.pkt.extractLsb' 0 6) = romRead s.cmdQ

/-- The position is within the transmission (10_state.md R53; `bit_idx` is bounded by its type). -/
structure State.InTransmission (s : State) : Prop where
  copy : s.repCnt < s.build.reps
  gapBit : s.txPhase = .gap → s.bitIdx = 12
  cycle : s.timer < phaseCycles s.build s.currentBit s.txPhase

/-- The invariant of the machine: the spec's statements about every reachable state. -/
structure State.Inv (s : State) : Prop where
  build : s.build.Valid
  widths : s.FitsWidths
  /-- 10_state.md R52 -/
  lineHigh : s.line = true ↔ s.seqState = .transmitting ∧ s.txPhase = .high
  /-- 10_state.md R53 -/
  position : s.seqState = .transmitting → s.InTransmission
  /-- 10_state.md R54 -/
  packet : s.seqState = .transmitting → s.ValidatedPacket
  /-- the response of a completed request is OK, of a rejected one an error (44_protocol_sequencer.md R164) -/
  doneOk : s.seqState = .done → s.respCode = .ok
  rejectedError : s.seqState = .rejected → s.respCode ≠ .ok

end Sys2Proof.Machine
end

