-- ==== Sys2Proof/Certificates/Slice0/Obligations.lean ====
section
/-! DEFINITION. The statements about the model, and the few terms they are written in. -/

namespace Sys2Proof.Claims
open Sys2Proof.Machine

/-- The five commands for address `a`: selector, instruction, code (30_encoding.md R88). -/
def fiveCommands (a : Int) : List (Nat × Instr × Nat) :=
  [(0, .light a, 0x3E), (1, .fanOff a, 0x3D), (2, .fanLow a, 0x37), (3, .fanMedium a, 0x2F), (4, .fanHigh a, 0x1F)]

/-- The packet as arithmetic, `0x1000 + (15 - a) * 128 + 0x40 + code` (30_encoding.md R87, 44_protocol_sequencer.md R181 to R185). -/
def packetValue (a : Int) (code : Nat) : Packet := BitVec.ofInt 13 (0x1000 + (15 - a) * 128 + 0x40 + code)

/-- The two symbols and their bits (30_encoding.md R88). -/
def twoSymbols : List (Instr × Bool) := [(.sendBit1, true), (.sendBit0, false)]

/-- What a requester may rely on in one cycle (10_state.md R31 to R33, R45). -/
def visible (s : State) : Bool × Bool × Option RespCode × Bool := (s.reqReady, s.busy, s.response, s.lineOut)

/-- The "to" column of the transition table (44_protocol_sequencer.md R164). -/
def nextSeqState (s : State) : SeqState :=
  if s.ports.rst = true then .idle
  else
    match s.seqState with
    | .idle => if s.ports.reqValid = true then .validating else .idle
    | .validating => if s.cmdQ ≤ 4 ∧ 0 ≤ s.addrQ ∧ s.addrQ ≤ 15 then .transmitting else .rejected
    | .transmitting =>
      if s.txPhase = .gap ∧ s.timer + 1 = s.build.nGap ∧ s.repCnt + 1 = s.build.reps then .done else .transmitting
    | .rejected => .idle
    | .done => .idle

end Sys2Proof.Claims

open Sys2Proof Sys2Proof.Machine Sys2Proof.Claims

/-! ## Encodings -/

/-- Words written out from the code map and the packet tables (30_encoding.md R88, 44_protocol_sequencer.md R181 to R185)
decode to the instructions they stand for; the bit list is the document's own packet for `send_command(2, "light")`.
The numbering of `decodeTableWord` is the model's (log 10). -/
def Obligations.WrittenOutWordsDecode : Prop :=
  decodeTableWord 16 0x107E = some (.light 15) ∧
  decodeTableWord 16 0x107D = some (.fanOff 15) ∧
  decodeTableWord 16 0x1577 = some (.fanLow 5) ∧
  decodeTableWord 16 0x136F = some (.fanMedium 9) ∧
  decodeTableWord 16 0x17DF = some (.fanHigh 0) ∧
  decodeTableWord 8 1 = some .sendBit1 ∧
  decodeTableWord 8 0 = some .sendBit0 ∧
  decode [true, false, true, true, false, true, true, true, true, true, true, true, false] = .ok (.light 2) ∧
  decodeTableWord 16 0x16FB = none ∧ decodeTableWord 16 0x06FE = none ∧ decodeTableWord 16 0x16BE = none

/-- Decoding the wire bits of a well-formed instruction gives it back, every address included. -/
def Obligations.DecodeOfEncode : Prop :=
  ∀ i : Instr, i.wellFormed = true → decode (encode i) = .ok i

/-- A bit sequence that decodes is the encoding of what it decodes to, which is well formed: each word has one meaning
and no instruction has two words. -/
def Obligations.EncodeOfDecode : Prop :=
  ∀ (bits : List Bool) (i : Instr), decode bits = .ok i → i.wellFormed = true ∧ encode i = bits

/-- 30_encoding.md R89: the mask and match test, the address `15 - uint(w[10:7])`, refusal of every other word, the
operands back from a built packet, and injectivity. -/
def Obligations.PacketDecodeReturnsOperands : Prop :=
  (∀ w : Packet,
    (w &&& 0x187F#13 = 0x107E#13 → decodePacket w = .ok (.light (15 - (w.extractLsb' 7 4).toNat))) ∧
    (w &&& 0x187F#13 = 0x107D#13 → decodePacket w = .ok (.fanOff (15 - (w.extractLsb' 7 4).toNat))) ∧
    (w &&& 0x187F#13 = 0x1077#13 → decodePacket w = .ok (.fanLow (15 - (w.extractLsb' 7 4).toNat))) ∧
    (w &&& 0x187F#13 = 0x106F#13 → decodePacket w = .ok (.fanMedium (15 - (w.extractLsb' 7 4).toNat))) ∧
    (w &&& 0x187F#13 = 0x105F#13 → decodePacket w = .ok (.fanHigh (15 - (w.extractLsb' 7 4).toNat))) ∧
    (w &&& 0x187F#13 ∉ [0x107E#13, 0x107D#13, 0x1077#13, 0x106F#13, 0x105F#13] → decodePacket w = .error (.notAPacket w))) ∧
  (∀ (a : Int) (sel : Nat) (code : Code), 0 ≤ a → a ≤ 15 → romRead sel = some code →
    decodePacket (buildPacket (addrEnc a) code) = decodeRequest sel a) ∧
  (∀ (a a' : Int) (sel sel' : Nat) (code code' : Code), 0 ≤ a → a ≤ 15 → 0 ≤ a' → a' ≤ 15 →
    romRead sel = some code → romRead sel' = some code' →
    buildPacket (addrEnc a) code = buildPacket (addrEnc a') code' → a = a' ∧ sel = sel')

/-- The request port names the five commands by selectors 0 to 4, for every address, and nothing by the others; the
symbols have no port (30_encoding.md R81, R90, 42_bit_transmitter.md R134). -/
def Obligations.RequestDecodeOfEncode : Prop :=
  (∀ a : Int, ∀ p ∈ fiveCommands a, decodeRequest p.1 a = .ok p.2.1 ∧ encodeRequest p.2.1 = some (p.1, a)) ∧
  (∀ (sel : Nat) (a : Int), 4 < sel → decodeRequest sel a = .error (.noSuchCommand sel)) ∧
  (∀ (i : Instr) (sel : Nat) (a : Int), encodeRequest i = some (sel, a) → decodeRequest sel a = .ok i) ∧
  encodeRequest .sendBit1 = none ∧ encodeRequest .sendBit0 = none

/-- The request word carries `req_valid`, `req_cmd` and `req_addr`, and acceptance samples exactly its address and
selector fields, at every width (10_state.md R31, R48; the numbers on the ports are log 3's). -/
def Obligations.SamplingReadsRequestWord : Prop :=
  ∀ (c : Config) (p : PortIn),
    (((p.requestWord c).extractLsb' 0 c.addrW).toInt = sampleAddr c p.reqAddr) ∧
    (((p.requestWord c).extractLsb' c.addrW c.cmdW).toNat = sampleCmd c p.reqCmd) ∧
    ((p.requestWord c).getLsbD (c.cmdW + c.addrW) = p.reqValid)

/-- The encodings of `seq_state`, `tx_phase` and `resp_code` (10_state.md R37, R38, 30_encoding.md R86), no two alike,
and the response word's fields in order (10_state.md R48). -/
def Obligations.RegisterEncodings : Prop :=
  (SeqState.idle.code = 0 ∧ SeqState.validating.code = 1 ∧ SeqState.transmitting.code = 2 ∧ SeqState.rejected.code = 3 ∧
    SeqState.done.code = 4) ∧
  (TxPhase.low.code = 0 ∧ TxPhase.high.code = 1 ∧ TxPhase.gap.code = 2) ∧
  (RespCode.ok.code = 0 ∧ RespCode.commandNotFound.code = 1 ∧ RespCode.addressOutOfRange.code = 2) ∧
  ∀ s : State, s.responseWord.getLsbD 4 = s.busy ∧ s.responseWord.getLsbD 3 = s.reqReady ∧
    s.responseWord.getLsbD 2 = s.respValid ∧ s.responseWord.extractLsb' 0 2 = s.respCode.code

/-! ## Operands -/

/-- The Command Table: the five names, their codes, no other name and no other selector (20_memory.md R61, R62,
40_command_table.md R102 to R107, R109), and no two entries alike (R110). -/
def Obligations.CommandTableIsClosed : Prop :=
  (lookup "light" = some 0b111110#6 ∧ lookup "fan-off" = some 0b111101#6 ∧ lookup "fan-low" = some 0b110111#6 ∧
    lookup "fan-medium" = some 0b101111#6 ∧ lookup "fan-high" = some 0b011111#6) ∧
  (∀ name : String, name ∉ ["light", "fan-off", "fan-low", "fan-medium", "fan-high"] → lookup name = none) ∧
  (∀ sel : Nat, romRead sel = none ↔ 4 < sel) ∧
  (∀ sel : Nat, cmdValid sel = (romRead sel).isSome) ∧
  (∀ (sel sel' : Nat) (code : Code), romRead sel = some code → romRead sel' = some code → sel = sel')

/-- 30_encoding.md R82, whole: the five names, 7 for every other string, the listed near misses among them, 5 and 6 the
images of no name, and the core treating 5 and 6 like 7. -/
def Obligations.SelOfNameIsExact : Prop :=
  (selOfName "light" = 0 ∧ selOfName "fan-off" = 1 ∧ selOfName "fan-low" = 2 ∧ selOfName "fan-medium" = 3 ∧
    selOfName "fan-high" = 4) ∧
  (∀ name : String, name ∉ ["light", "fan-off", "fan-low", "fan-medium", "fan-high"] → selOfName name = 7) ∧
  (∀ name ∈ ["Light", "LIGHT", "light ", " light", "fan_low", "fanlow", ""], selOfName name = 7) ∧
  (∀ name : String, selOfName name ≠ 5 ∧ selOfName name ≠ 6) ∧
  (∀ s : State, s.ports.rst = false → s.seqState = .validating → s.cmdQ ∈ [5, 6, 7] →
    step s = .next { s with respCode := .commandNotFound, seqState := .rejected, inputs := s.inputs.tail })

/-- `AddrValid` of a word is the bit test on everything above bit 3, at every width of at least 5 (41_address_encoder.md R116). -/
def Obligations.AddressCheckCoversWholeWord : Prop :=
  (∀ (w : Nat) (a : BitVec w), 5 ≤ w → (addrValid a.toInt = true ↔ a >>> 4 = 0)) ∧
  addrValid (0x00000010#32).toInt = false ∧ addrValid (0x0000000F#32).toInt = true ∧ addrValid (0xFFFFFFFF#32).toInt = false

/-- The Address Encoder's laws (41_address_encoder.md R120). -/
def Obligations.AddressEncoderLaws : Prop :=
  (∀ a : Int, 0 ≤ a → a ≤ 15 → ~~~(addrEnc a) = BitVec.ofInt 4 a ∧ ((addrEnc a).toNat : Int) + a = 15 ∧
    addrEnc ((addrEnc a).toNat : Int) = BitVec.ofInt 4 a ∧ encodeAddress a = some (addrEnc a)) ∧
  (∀ n : Nibble, ∃ a : Int, (0 ≤ a ∧ a ≤ 15 ∧ addrEnc a = n) ∧ ∀ a' : Int, 0 ≤ a' → a' ≤ 15 → addrEnc a' = n → a' = a) ∧
  (∀ a : Int, ¬(0 ≤ a ∧ a ≤ 15) → encodeAddress a = none)

/-- Every integer address presented as 41_address_encoder.md R119 (e) says is judged as the integer itself, at every
build's port width, and a legal one arrives unchanged. -/
def Obligations.PresentedAddressIsJudgedWhole : Prop :=
  ∀ (c : Config) (a : Int), c.Valid →
    (addrValid (sampleAddr c (presentAddr c a)) = true ↔ 0 ≤ a ∧ a ≤ 15) ∧
    (0 ≤ a → a ≤ 15 → sampleAddr c (presentAddr c a) = a)

/-- The packet's layout, bit by bit in wire order (30_encoding.md R83): preamble, complemented address, separator, code. -/
def Obligations.PacketLayout : Prop :=
  ∀ (a : Int) (code : Code), 0 ≤ a → a ≤ 15 →
    packetBits (buildPacket (addrEnc a) code) =
      [true, false, !(BitVec.ofInt 4 a).getLsbD 3, !(BitVec.ofInt 4 a).getLsbD 2, !(BitVec.ofInt 4 a).getLsbD 1,
        !(BitVec.ofInt 4 a).getLsbD 0, true, code.getLsbD 5, code.getLsbD 4, code.getLsbD 3, code.getLsbD 2,
        code.getLsbD 1, code.getLsbD 0] ∧
    ∀ i : Fin 13, (packetBits (buildPacket (addrEnc a) code))[i.val]? = some (packetBit (buildPacket (addrEnc a) code) i)

/-- The packet as arithmetic (30_encoding.md R87). -/
def Obligations.PacketArithmetic : Prop :=
  ∀ (a : Int) (code : Code), 0 ≤ a → a ≤ 15 →
    ((buildPacket (addrEnc a) code).toNat : Int) = 0x1000 + (15 - a) * 128 + 0x40 + code.toNat

/-! ## The instructions -/

/-- Each command with a legal address, in every state, commits its packet, written as arithmetic (30_encoding.md R87), and
starts the transmission, writing nothing else (44_protocol_sequencer.md R172). -/
def Obligations.CommandStartsTransmission : Prop :=
  ∀ (s : State) (a : Int), 0 ≤ a → a ≤ 15 → ∀ p ∈ fiveCommands a,
    exec p.2.1 s = .next { s with pkt := packetValue a p.2.2, bitIdx := 0, repCnt := 0, txPhase := .low, timer := 0, seqState := .transmitting }

/-- Each command with an address outside 0 to 15, in every state, reports AddressOutOfRange and writes nothing else
(60_exceptions.md R192, R193). -/
def Obligations.CommandRejectsAddress : Prop :=
  ∀ (s : State) (a : Int), ¬(0 ≤ a ∧ a ≤ 15) → ∀ p ∈ fiveCommands a,
    exec p.2.1 s = .next { s with respCode := .addressOutOfRange, seqState := .rejected }

/-- What a command leaves alone: the line, the latched request, the ports to come and the build always; `resp_code` when it
starts a transmission; the packet and every position register when it is rejected (44_protocol_sequencer.md R172). -/
def Obligations.CommandFrame : Prop :=
  ∀ (s t : State) (a : Int), ∀ p ∈ fiveCommands a, exec p.2.1 s = .next t →
    t.line = s.line ∧ t.addrQ = s.addrQ ∧ t.cmdQ = s.cmdQ ∧ t.inputs = s.inputs ∧ t.build = s.build ∧
    (0 ≤ a ∧ a ≤ 15 → t.respCode = s.respCode) ∧
    (¬(0 ≤ a ∧ a ≤ 15) → t.pkt = s.pkt ∧ t.bitIdx = s.bitIdx ∧ t.repCnt = s.repCnt ∧ t.timer = s.timer ∧ t.txPhase = s.txPhase)

/-- The whole of a command with a legal address, for every build: run from any state whose line is low, with no reset
until it ends, it starts, and after `R * (13 * N_SYM + N_GAP)` cycles the machine is in DONE with `resp_code` OK; over
those cycles the line is exactly `TransmissionSegs` of its packet; the latched request is as before
(44_protocol_sequencer.md R178, R181 to R185, 43_packet_framer.md R145, R147). -/
def Obligations.CommandRunsToCompletion : Prop :=
  ∀ (s : State) (a : Int), s.build.Valid → s.line = false → 0 ≤ a → a ≤ 15 → s.NoReset s.build.nTransmission →
    ∀ p ∈ fiveCommands a, ∃ t, exec p.2.1 s = .next t ∧
      runCycles s.build.nTransmission t = .next
        { s with seqState := .done, txPhase := .gap, pkt := packetValue a p.2.2, bitIdx := 12, repCnt := s.build.reps - 1,
                 timer := 0, respCode := .ok, inputs := s.inputs.drop s.build.nTransmission } ∧
      lineTrace s.build.nTransmission t = segsCycles s.build (transmissionSegs s.build (packetValue a p.2.2))

/-- One cycle of a symbol's low phase, both symbols: the last raises the line and enters PH_HIGH, any other counts
(44_protocol_sequencer.md R173, 42_bit_transmitter.md R131). That a `timer` past the phase's end, which no run reaches,
counts on in `TIMER_W` bits is the model's reading (DEDUCED, log 6). -/
def Obligations.SymbolLowCycle : Prop :=
  ∀ (s : State), s.seqState = .transmitting → s.txPhase = .low → ∀ p ∈ twoSymbols,
    (s.timer + 1 = (if p.2 then s.build.nLong else s.build.nShort) →
      exec p.1 s = .next { s with line := true, txPhase := .high, timer := 0 }) ∧
    (s.timer + 1 ≠ (if p.2 then s.build.nLong else s.build.nShort) →
      exec p.1 s = .next { s with timer := (s.timer + 1) % 2 ^ s.build.timerW })

/-- One cycle of a symbol's high phase, both symbols: the last lowers the line and enters the next bit's PH_LOW or, after
bit 12, PH_GAP; any other counts (44_protocol_sequencer.md R174, 42_bit_transmitter.md R131). That a `timer` past the
phase's end, which no run reaches, counts on in `TIMER_W` bits is the model's reading (DEDUCED, log 6). -/
def Obligations.SymbolHighCycle : Prop :=
  ∀ (s : State), s.seqState = .transmitting → s.txPhase = .high → ∀ p ∈ twoSymbols,
    (s.timer + 1 = (if p.2 then s.build.nShort else s.build.nLong) →
      exec p.1 s = .next (if s.bitIdx = 12 then { s with line := false, txPhase := .gap, timer := 0 }
        else { s with line := false, txPhase := .low, timer := 0, bitIdx := s.bitIdx + 1 })) ∧
    (s.timer + 1 ≠ (if p.2 then s.build.nShort else s.build.nLong) →
      exec p.1 s = .next { s with timer := (s.timer + 1) % 2 ^ s.build.timerW })

/-- What a symbol's cycle leaves alone (10_state.md R36, 42_bit_transmitter.md R125, R134). -/
def Obligations.SymbolFrame : Prop :=
  ∀ (s t : State), ∀ p ∈ twoSymbols, exec p.1 s = .next t →
    t.seqState = s.seqState ∧ t.pkt = s.pkt ∧ t.repCnt = s.repCnt ∧ t.addrQ = s.addrQ ∧ t.cmdQ = s.cmdQ ∧
    t.respCode = s.respCode ∧ t.build = s.build ∧ t.inputs = s.inputs ∧
    (s.txPhase = .low → t.bitIdx = s.bitIdx) ∧ (t.txPhase = s.txPhase → t.line = s.line ∧ t.bitIdx = s.bitIdx)

/-- The whole of a symbol, for every build: started with the line low at `timer` 0 and no reset, it is what every one of
its `N_SYM` cycles runs, the line over them is its waveform, and it leaves the line low at the start of the next phase
(42_bit_transmitter.md R125, R127, R128, R132). -/
def Obligations.SymbolWaveform : Prop :=
  ∀ (s : State), s.build.Valid → s.seqState = .transmitting → s.txPhase = .low → s.timer = 0 → s.line = false →
    s.repCnt < s.build.reps → s.NoReset s.build.nSym → ∀ p ∈ twoSymbols, s.currentBit = p.2 →
    (∃ t, exec p.1 s = .next t) ∧
    (∀ k < s.build.nSym, ∀ t, runCycles k s = .next t → step t = exec p.1 t.nextCycle) ∧
    runCycles s.build.nSym s = .next (if s.bitIdx = 12 then { s with txPhase := .gap, inputs := s.inputs.drop s.build.nSym }
      else { s with bitIdx := s.bitIdx + 1, inputs := s.inputs.drop s.build.nSym }) ∧
    lineTrace s.build.nSym s =
      List.replicate (if p.2 then s.build.nLong else s.build.nShort) false ++
        List.replicate (if p.2 then s.build.nShort else s.build.nLong) true

/-- A symbol run where none is in progress is refused by name: the hardware offers no single-symbol operation
(42_bit_transmitter.md R134; the form of the refusal is log 8's). -/
def Obligations.SymbolNeedsTransmission : Prop :=
  ∀ (s : State), s.seqState ≠ .transmitting ∨ s.txPhase = .gap → ∀ p ∈ twoSymbols,
    exec p.1 s = .refused .noSymbolInProgress

/-! ## The step -/

/-- A step runs the decoded instruction: in VALIDATING the command the latched request decodes to, in PH_LOW and PH_HIGH
the symbol the packet bit in progress decodes to, on the state whose ports are the next cycle's. -/
def Obligations.StepRunsDecodedInstruction : Prop :=
  ∀ (s : State) (i : Instr), s.ports.rst = false →
    (s.seqState = .validating → decodeRequest s.cmdQ s.addrQ = .ok i → step s = exec i s.nextCycle) ∧
    (s.seqState = .transmitting → s.txPhase ≠ .gap → s.repCnt < s.build.reps → decode [packetBit s.pkt s.bitIdx] = .ok i →
      step s = exec i s.nextCycle)

/-- The instruction placed by `withFetchWord` is what the very next step decodes and runs, and it completes
(a convention of the model, log 9 and log 10). -/
def Obligations.PlacedWordRuns : Prop :=
  ∀ (s : State) (nbits w : Nat) (i : Instr), 1 ≤ s.build.reps → decodeTableWord nbits w = some i →
    step (s.withFetchWord nbits w) = exec i (s.withFetchWord nbits w).nextCycle ∧
    ∃ t, exec i (s.withFetchWord nbits w).nextCycle = .next t

/-- IDLE (44_protocol_sequencer.md R171, 10_state.md R31, R44): a request presented is latched whole and VALIDATING is
next; with none, no register is written. -/
def Obligations.IdleAcceptsRequest : Prop :=
  ∀ (s : State) (p : PortIn) (rest : List PortIn), s.inputs = p :: rest → p.rst = false → s.seqState = .idle →
    (p.reqValid = true → step s = .next
      { s with addrQ := sampleAddr s.build p.reqAddr, cmdQ := sampleCmd s.build p.reqCmd, seqState := .validating, inputs := rest }) ∧
    (p.reqValid = false → step s = .next { s with inputs := rest })

/-- A selector of 5 or more in VALIDATING reports CommandNotFound whatever the address, an illegal address included
(60_exceptions.md R191, R195, 44_protocol_sequencer.md R161); nothing else is written (R193). -/
def Obligations.UnknownCommandIsReportedFirst : Prop :=
  ∀ (s : State), s.ports.rst = false → s.seqState = .validating → 4 < s.cmdQ →
    step s = .next { s with respCode := .commandNotFound, seqState := .rejected, inputs := s.inputs.tail }

/-- PH_GAP (44_protocol_sequencer.md R175): every cycle but the last counts; the last completes the transmission after the
last copy, and starts the next copy otherwise. That a `timer` past the gap's end, which no run reaches, counts on in
`TIMER_W` bits is the model's reading (DEDUCED, log 6). -/
def Obligations.GapCountsThenRepeatsOrCompletes : Prop :=
  ∀ (s : State), s.ports.rst = false → s.seqState = .transmitting → s.txPhase = .gap → s.repCnt < s.build.reps →
    (s.timer + 1 ≠ s.build.nGap → step s = .next { s with timer := (s.timer + 1) % 2 ^ s.build.timerW, inputs := s.inputs.tail }) ∧
    (s.timer + 1 = s.build.nGap → s.repCnt = s.build.reps - 1 →
      step s = .next { s with timer := 0, respCode := .ok, seqState := .done, inputs := s.inputs.tail }) ∧
    (s.timer + 1 = s.build.nGap → s.repCnt ≠ s.build.reps - 1 →
      step s = .next { s with timer := 0, repCnt := s.repCnt + 1, bitIdx := 0, txPhase := .low, inputs := s.inputs.tail })

/-- REJECTED and DONE (44_protocol_sequencer.md R176): `resp_valid = 1`, `resp_code` carries the result, the line is low,
and IDLE follows whatever the ports but `rst` say. -/
def Obligations.TerminalStatesLastOneCycle : Prop :=
  ∀ (s : State), s.Inv → s.seqState = .rejected ∨ s.seqState = .done →
    s.respValid = true ∧ s.line = false ∧ (s.seqState = .done → s.response = some .ok) ∧
    (s.seqState = .rejected → s.response = some .commandNotFound ∨ s.response = some .addressOutOfRange) ∧
    (s.ports.rst = false → step s = .next { s with seqState := .idle, inputs := s.inputs.tail })

/-- In a cycle with `rst = 1` the next state is the reset state of 10_state.md R55, whatever the state and the other
ports (10_state.md R34). -/
def Obligations.ResetFromAnyState : Prop :=
  ∀ (s : State), s.ports.rst = true →
    step s = .next { build := s.build, seqState := .idle, txPhase := .low, pkt := 0, bitIdx := 0, repCnt := 0, timer := 0,
                     line := false, addrQ := 0, cmdQ := 0, respCode := .ok, inputs := s.inputs.tail }

/-- The registers at reset (10_state.md R55) and the outputs in the first cycle after it (70_reset_and_hazards.md R221).
The default build and the empty port schedule are the model's choices (log 1, log 2). -/
def Obligations.ResetStateAndOutputs : Prop :=
  State.reset.seqState = .idle ∧ State.reset.line = false ∧ State.reset.txPhase = .low ∧ State.reset.pkt = 0 ∧
  State.reset.bitIdx = 0 ∧ State.reset.repCnt = 0 ∧ State.reset.timer = 0 ∧ State.reset.addrQ = 0 ∧ State.reset.cmdQ = 0 ∧
  State.reset.respCode = .ok ∧ State.reset.outputs = ⟨true, false, false, .ok, false⟩ ∧
  State.reset.build = Config.default ∧ Config.default.Valid

/-- The transition table (44_protocol_sequencer.md R164): a step goes where the table says, the code a validation leaves is
the table's, and the outputs in the state reached are those of the outputs column: `req_ready` exactly in IDLE, `busy` its
negation, `resp_valid` exactly in REJECTED and DONE (10_state.md R31, R32, R47), with OK in DONE; `line_out` 0 after a
reset from any state, and from a state the invariant allows 1 exactly in PH_HIGH of TRANSMITTING (R173 to R175), so 0 in
IDLE, VALIDATING, REJECTED and DONE. -/
def Obligations.StateMachineFollowsTable : Prop :=
  ∀ (s t : State), step s = .next t →
    t.seqState = nextSeqState s ∧
    (s.ports.rst = false → s.seqState = .validating →
      t.respCode = if 4 < s.cmdQ then .commandNotFound else if 0 ≤ s.addrQ ∧ s.addrQ ≤ 15 then s.respCode else .addressOutOfRange) ∧
    (t.reqReady = true ↔ t.seqState = .idle) ∧ (t.busy = true ↔ t.seqState ≠ .idle) ∧
    (t.respValid = true ↔ t.seqState = .rejected ∨ t.seqState = .done) ∧
    (t.seqState = .done → t.response = some .ok) ∧
    (s.ports.rst = true → t.lineOut = false) ∧
    (s.Inv → (t.lineOut = true ↔ t.seqState = .transmitting ∧ t.txPhase = .high))

/-- A request presented while busy is not read (44_protocol_sequencer.md R177): the next state is the same whatever
`req_valid`, `req_addr` and `req_cmd` are. -/
def Obligations.BusyIgnoresRequestPorts : Prop :=
  ∀ (s : State) (p q : PortIn) (rest : List PortIn), s.seqState ≠ .idle → p.rst = q.rst →
    step { s with inputs := p :: rest } = step { s with inputs := q :: rest }

/-- Which states write which registers, `rst` apart (10_state.md R36, R39, R44, R45); the build is never written
(70_reset_and_hazards.md R231). -/
def Obligations.RegistersWrittenOnlyInTheirStates : Prop :=
  ∀ (s t : State), step s = .next t →
    t.build = s.build ∧ t.inputs = s.inputs.tail ∧
    (s.ports.rst = false →
      (s.seqState ≠ .idle → t.addrQ = s.addrQ ∧ t.cmdQ = s.cmdQ) ∧
      (s.seqState ≠ .validating → t.pkt = s.pkt) ∧
      (s.seqState ≠ .transmitting → t.line = s.line) ∧
      (s.seqState ≠ .validating → s.seqState ≠ .transmitting →
        t.txPhase = s.txPhase ∧ t.bitIdx = s.bitIdx ∧ t.repCnt = s.repCnt ∧ t.timer = s.timer ∧ t.respCode = s.respCode))

/-- The line changes at the end of a low phase, to 1, and at the end of a high phase, to 0, and otherwise only by reset,
to 0 (10_state.md R43, 42_bit_transmitter.md R126). -/
def Obligations.LineChangesOnlyAtPhaseEnds : Prop :=
  ∀ (s t : State), step s = .next t → t.line ≠ s.line →
    (s.ports.rst = true ∧ t.line = false) ∨
    (s.ports.rst = false ∧ s.seqState = .transmitting ∧ s.txPhase = .low ∧
      s.timer + 1 = lowCycles s.build s.currentBit ∧ t.line = true) ∨
    (s.ports.rst = false ∧ s.seqState = .transmitting ∧ s.txPhase = .high ∧
      s.timer + 1 = highCycles s.build s.currentBit ∧ t.line = false)

/-- `timer` counts by one inside a phase, is 0 at the start of the next, and never wraps in a state the invariant
allows (10_state.md R42). -/
def Obligations.TimerCountsWithoutWrapping : Prop :=
  ∀ (s t : State), s.Inv → s.ports.rst = false → s.seqState = .transmitting → step s = .next t →
    t.timer = (if s.timer + 1 = phaseCycles s.build s.currentBit s.txPhase then 0 else s.timer + 1) ∧
    t.timer < max s.build.nLong s.build.nGap

/-! ## The invariant -/

/-- The invariant holds at reset. -/
def Obligations.InvariantAtReset : Prop := State.reset.Inv

/-- Every step keeps the invariant: the line is high exactly in PH_HIGH (10_state.md R52), the position is within the
transmission (R53), only a validated packet is on the wire (R54), registers keep to their widths, responses agree with
the terminal states; for every build and every port schedule. -/
def Obligations.StepKeepsInvariant : Prop :=
  ∀ (s t : State), s.Inv → step s = .next t → t.Inv

/-- In a state the invariant allows, the machine never stops: nothing else can go wrong inside the core (60_exceptions.md R198). -/
def Obligations.InvariantStatesAlwaysStep : Prop :=
  ∀ (s : State), s.Inv → ∃ t, step s = .next t

/-- Over all states the machine refuses nothing, and stops exactly where the spec gives no step: TRANSMITTING with
`rep_cnt >= R` (93_implementation_defined.md U4; the choice to stop there is log 5's). -/
def Obligations.StopsOnlyWithRepCntOutOfRange : Prop :=
  ∀ (s : State), (∀ r, step s ≠ .refused r) ∧
    ((∃ r, step s = .fault r) ↔ s.ports.rst = false ∧ s.seqState = .transmitting ∧ s.build.reps ≤ s.repCnt)

/-! ## Whole requests -/

/-- A rejected request, accepted in cycle 0 (44_protocol_sequencer.md R180): the error is the response in cycle 2, IDLE is
cycle 3, the line keeps its level, and of the other registers only the latched request and `resp_code` are written. -/
def Obligations.RejectedRequestTakesThreeCycles : Prop :=
  ∀ (s : State) (p : PortIn) (rest : List PortIn) (r : RespCode), s.seqState = .idle → s.inputs = p :: rest →
    p.reqValid = true → s.NoReset 3 →
    ((4 < sampleCmd s.build p.reqCmd ∧ r = .commandNotFound) ∨
      (sampleCmd s.build p.reqCmd ≤ 4 ∧ ¬(0 ≤ sampleAddr s.build p.reqAddr ∧ sampleAddr s.build p.reqAddr ≤ 15) ∧
        r = .addressOutOfRange)) →
    runCycles 3 s = .next { s with addrQ := sampleAddr s.build p.reqAddr, cmdQ := sampleCmd s.build p.reqCmd, respCode := r, inputs := rest.drop 2 } ∧
    traceOf State.response 3 s = [none, none, some r] ∧ lineTrace 3 s = [s.line, s.line, s.line] ∧
    traceOf State.busy 3 s = [false, true, true]

/-- A request made by name and integer address, for every build: the machine answers with the result of `SendCommand`, in
the cycle after its trace has ended, after the two cycles of acceptance and validation; from the cycle after acceptance
until that cycle has passed it is busy and not ready (20_memory.md R73), and it gives no response before it; and the line shows exactly the trace, nothing for a rejected request (44_protocol_sequencer.md R163, R178,
R179, R180). -/
def Obligations.RequestMatchesSendCommand : Prop :=
  ∀ (s : State) (a : Int) (name : String) (rest : List PortIn) (r : RespCode) (segs : List Segment) (n : Nat),
    s.build.Valid → s.seqState = .idle → s.line = false → s.inputs = PortIn.send s.build a name :: rest →
    sendCommand s.build a name = (r, segs) → n = 2 + segsUs segs * s.build.clkMhz → s.NoReset n →
    ∃ t, runCycles n s = .next t ∧ t.response = some r ∧ t.line = false ∧
      lineTrace n s = false :: false :: segsCycles s.build segs ∧
      traceOf State.busy (n + 1) s = false :: List.replicate n true ∧
      traceOf State.reqReady (n + 1) s = true :: List.replicate n false ∧
      traceOf State.response (n + 1) s = List.replicate n none ++ [some r]

/-- Once started, a transmission ends: from any state in TRANSMITTING the invariant allows, with no reset, DONE with OK is
reached within `R * (13 * N_SYM + N_GAP)` cycles (43_packet_framer.md R145). -/
def Obligations.TransmissionAlwaysEnds : Prop :=
  ∀ (s : State), s.Inv → s.seqState = .transmitting → s.NoReset s.build.nTransmission →
    ∃ n t, n ≤ s.build.nTransmission ∧ runCycles n s = .next t ∧ t.seqState = .done ∧ t.respCode = .ok ∧ t.line = false

/-- What earlier requests left behind is never seen (10_state.md R57): two IDLE states of one build with the same line and
the same ports to come show the same `req_ready`, `busy`, response and `line_out` for ever. -/
def Obligations.LeftoversAreNeverVisible : Prop :=
  ∀ (n : Nat) (s t : State), s.seqState = .idle → t.seqState = .idle → s.build = t.build → s.line = t.line →
    s.inputs = t.inputs → traceOf visible n s = traceOf visible n t

/-- From the start of the last gap the line stays low for at least `N_GAP + 3 + N_LONG` cycles, whatever is requested
meanwhile (44_protocol_sequencer.md R186). -/
def Obligations.GapBetweenTransmissions : Prop :=
  ∀ (s : State), s.build.Valid → s.seqState = .transmitting → s.txPhase = .gap → s.timer = 0 → s.line = false →
    s.repCnt + 1 = s.build.reps → s.NoReset (s.build.nGap + 3 + s.build.nLong) →
    lineTrace (s.build.nGap + 3 + s.build.nLong) s = List.replicate (s.build.nGap + 3 + s.build.nLong) false

/-! ## The call level -/

/-- `SendCommand` (44_protocol_sequencer.md R163): the three results, the command judged before the address, the trace of a
valid request, no trace of any other. -/
def Obligations.SendCommandResults : Prop :=
  ∀ (c : Config) (a : Int) (name : String),
    (4 < selOfName name → sendCommand c a name = (.commandNotFound, [])) ∧
    (selOfName name ≤ 4 → ¬(0 ≤ a ∧ a ≤ 15) → sendCommand c a name = (.addressOutOfRange, [])) ∧
    (∀ code, lookup name = some code → 0 ≤ a → a ≤ 15 →
      sendCommand c a name = (.ok, transmissionSegs c (packetValue a code.toNat)))

/-- Segment traces (43_packet_framer.md R147): 26 segments a packet, 27 R a transmission, their durations, and 13 R of
each line operation, for every build and packet. -/
def Obligations.SegmentTraceTotals : Prop :=
  ∀ (c : Config) (p : Packet),
    (packetSegs c p).length = 26 ∧ segsUs (packetSegs c p) = c.tPacketUs ∧
    (transmissionSegs c p).length = 27 * c.reps ∧ segsUs (transmissionSegs c p) = c.tTransmissionUs ∧
    ((lineOpsFrom 0 (transmissionSegs c p)).filter (fun e => e.1 == .setHigh)).length = 13 * c.reps ∧
    ((lineOpsFrom 0 (transmissionSegs c p)).filter (fun e => e.1 == .setLow)).length = 13 * c.reps

/-- 43_packet_framer.md R148, whole, for every build and packet: the edge times, and the end of the transmission. -/
def Obligations.EdgeTimes : Prop :=
  ∀ (c : Config) (p : Packet),
    (lineOpsFrom 0 (transmissionSegs c p) =
      (List.range c.reps).flatMap fun r => (List.finRange 13).flatMap fun i =>
        [(.setHigh, c.tRepUs * r + c.tSymUs * i.val + (if packetBit p i then c.tLongUs else c.tShortUs)),
         (.setLow, c.tRepUs * r + c.tSymUs * (i.val + 1))]) ∧
    segsUs (transmissionSegs c p) = c.tRepUs * c.reps

/-- 43_packet_framer.md R150, whole: a packet's time high by its number of one-bits, low for the rest of its length; 7 to 11
one-bits in every packet the core builds, so 5620 to 7240 microseconds high at the defaults. -/
def Obligations.TimeHighPerPacket : Prop :=
  (∀ (c : Config) (p : Packet), segsHighUs (packetSegs c p) =
    c.tShortUs * onesIn (packetBits p) + c.tLongUs * (13 - onesIn (packetBits p)) ∧
    segsHighUs (packetSegs c p) + (((packetSegs c p).filter (fun seg => !seg.1)).map Prod.snd).sum = c.tPacketUs) ∧
  (∀ (a : Int) (sel : Nat) (code : Code), 0 ≤ a → a ≤ 15 → romRead sel = some code →
    (7 ≤ onesIn (packetBits (buildPacket (addrEnc a) code)) ∧ onesIn (packetBits (buildPacket (addrEnc a) code)) ≤ 11) ∧
    5620 ≤ segsHighUs (packetSegs Config.default (buildPacket (addrEnc a) code)) ∧
    segsHighUs (packetSegs Config.default (buildPacket (addrEnc a) code)) ≤ 7240)

/-- Conformance windows (42_bit_transmitter.md R130, 43_packet_framer.md R144): bounds included, 675 to 875 and 270 to 470
at the defaults, never both in any valid build, whose condition is log 16's; the nominal
waveform conforms. Measured durations are whole microseconds by the model's choice (log 17). -/
def Obligations.ConformanceWindows : Prop :=
  (∀ m : Nat, phaseConforms Config.default 775 m = true ↔ 675 ≤ m ∧ m ≤ 875) ∧
  (∀ m : Nat, phaseConforms Config.default 370 m = true ↔ 270 ≤ m ∧ m ≤ 470) ∧
  (∀ (c : Config) (m : Nat), c.Valid → ¬(phaseConforms c c.tLongUs m = true ∧ phaseConforms c c.tShortUs m = true)) ∧
  (∀ (c : Config) (b : Bool), symbolConforms c b (lowUs c b) (highUs c b) = true) ∧
  (∀ (c : Config) (b : Bool) (low high : Nat), c.Valid → symbolConforms c b low high = true → symbolConforms c (!b) low high = false) ∧
  (∀ c : Config, c.Valid → gapConforms c c.tGapUs = true)

/-- The clock's error budget (42_bit_transmitter.md R131, 70_reset_and_hazards.md R232): the long phase binds in
any valid build (its condition is log 16's), at 100/775 at the defaults; the fraction's form is log 17's. -/
def Obligations.LongPhaseBindsClockError : Prop :=
  (∀ (c : Config) (num den : Nat), c.Valid → clockErrorFits c c.tLongUs num den = true → clockErrorFits c c.tShortUs num den = true) ∧
  (∀ num den : Nat, clockErrorFits Config.default 775 num den = true ↔ num * 775 ≤ 100 * den)

/-- 00_scope.md R20, whole: the durations at the defaults and of a transmission for every repeat count; with them the
default cycle counts and one build at 4 MHz (70_reset_and_hazards.md R237, 95_test_vectors.md 2.3). -/
def Obligations.DurationsAtDefaults : Prop :=
  (∀ b : Bool, lowUs Config.default b + highUs Config.default b = 1145) ∧ Config.default.tSymUs = 1145 ∧
  Config.default.nSym = 1145 ∧ Config.default.tPacketUs = 14885 ∧ Config.default.tRepUs = 24885 ∧
  (∀ r : Nat, ({ Config.default with reps := r } : Config).tTransmissionUs = r * Config.default.tRepUs) ∧
  ({ Config.default with reps := 5 } : Config).tTransmissionUs = 124425 ∧
  ({ Config.default with reps := 3 } : Config).tTransmissionUs = 74655 ∧
  Config.default.nLong = 775 ∧ Config.default.nShort = 370 ∧ Config.default.nGap = 10000 ∧
  Config.default.nTransmission = 124425 ∧ ({ Config.default with reps := 3 } : Config).Valid ∧
  ({ Config.default with clkMhz := 4, timerW := 16 } : Config).nSym = 4580
end

