-- ==== Sys2Proof/Laws/Decode.lean ====
section
/-! SUPPORT. Bit sequences and the words they spell: the basic facts of the decoder and the encoder. -/

namespace Sys2Proof

@[simp] theorem wordOfBits_nil : wordOfBits [] = 0 := rfl

theorem wordOfBits_snoc (bits : List Bool) (b : Bool) : wordOfBits (bits ++ [b]) = 2 * wordOfBits bits + b.toNat := by
  simp [wordOfBits]

/-- Bit `k` of the word is the bit `k` places from the sequence's end. -/
theorem wordOfBits_testBit (bits : List Bool) (k : Nat) : (wordOfBits bits).testBit k = (bits.reverse[k]?).getD false := by
  induction bits using List.reverseRecOn generalizing k with
  | nil => simp
  | append_singleton bits b ih =>
    rw [wordOfBits_snoc, List.reverse_append]
    cases k with
    | zero => cases b <;> simp [Nat.testBit_zero]
    | succ k =>
      have : (2 * wordOfBits bits + b.toNat) / 2 = wordOfBits bits := by cases b <;> simp; omega
      rw [Nat.testBit_succ, this, ih]
      simp

@[simp] theorem packetBits_length (w : Packet) : (packetBits w).length = 13 := by
  simp [packetBits]

/-- The bit at place `i` of the sequence is bit `12 - i` of the word (30_encoding.md R83). -/
theorem packetBits_get (w : Packet) {i : Nat} (h : i < 13) : (packetBits w)[i]? = some (w.getLsbD (12 - i)) := by
  simp [packetBits, h]

/-- Thirteen bits spell a word that sends them. -/
theorem packetBits_wordOfBits {bits : List Bool} (h : bits.length = 13) :
    packetBits (BitVec.ofNat 13 (wordOfBits bits)) = bits := by
  apply List.ext_getElem?
  intro i
  by_cases hi : i < 13
  · have hj : 12 - i < 13 := by omega
    have hr : bits.reverse[12 - i]? = bits[i]? := by
      rw [List.getElem?_reverse (by omega)]
      congr 1
      omega
    rw [packetBits_get _ hi, BitVec.getLsbD_ofNat, wordOfBits_testBit, hr]
    simp [hj, List.getElem?_eq_getElem (show i < bits.length by omega)]
  · rw [List.getElem?_eq_none (by simp; omega), List.getElem?_eq_none (by omega)]

/-- A sent word is spelled by its bits. -/
theorem ofNat_wordOfBits_packetBits (w : Packet) : BitVec.ofNat 13 (wordOfBits (packetBits w)) = w := by
  have h := packetBits_wordOfBits (packetBits_length w)
  have inj : ∀ u v : Packet, packetBits u = packetBits v → u = v := by
    intro u v huv
    apply BitVec.eq_of_getLsbD_eq
    intro i hi
    have := congrArg (fun l : List Bool => l[12 - i]?) huv
    simp only [packetBits_get _ (show 12 - i < 13 by omega), Option.some.injEq, show 12 - (12 - i) = i by omega] at this
    exact this
  exact inj _ _ h

/-- Thirteen bits decode as the packet they spell. -/
theorem decode_packetBits (w : Packet) : decode (packetBits w) = decodePacket w := by
  have hl := packetBits_length w
  have hw := ofNat_wordOfBits_packetBits w
  generalize packetBits w = bits at hl hw
  match bits, hl with
  | _ :: _ :: _, hl => simp only [decode, hl, if_true, hw]

@[simp] theorem decode_single (b : Bool) : decode [b] = .ok (decodeSymbol b) := rfl

end Sys2Proof
end

