-- ==== Sys2Proof/Laws/Flags.lean ====
section
/-! SUPPORT. When each status flag is 1 (10_state.md R47), so that no proof unfolds a flag. -/

namespace Sys2Proof.Machine

variable {s : State}

@[simp] theorem State.reqReady_iff : s.reqReady = true ↔ s.seqState = .idle := by
  simp [State.reqReady]

@[simp] theorem State.busy_iff : s.busy = true ↔ s.seqState ≠ .idle := by
  simp [State.busy]

@[simp] theorem State.respValid_iff : s.respValid = true ↔ s.seqState = .rejected ∨ s.seqState = .done := by
  simp [State.respValid]

/-- `busy` is the negation of `req_ready`. -/
theorem State.busy_eq_not_reqReady (s : State) : s.busy = !s.reqReady := rfl

/-- In REJECTED and DONE the response is `resp_code`. -/
theorem State.response_of_respValid (h : s.respValid = true) : s.response = some s.respCode := by
  simp only [State.response, h, if_true]

/-- Elsewhere there is none. -/
theorem State.response_of_not_respValid (h : s.respValid = false) : s.response = none := by
  simp [State.response, h]

end Sys2Proof.Machine
end

