-- ==== Sys2Proof/Laws/State.lean ====
section
/-! SUPPORT. One lemma per field of State for each named update: what the update leaves in that field. -/

namespace Sys2Proof.Machine

variable (s : State)

/-! ### nextCycle -/

@[simp] theorem State.nextCycle_build : (s.nextCycle).build = s.build := rfl
@[simp] theorem State.nextCycle_seqState : (s.nextCycle).seqState = s.seqState := rfl
@[simp] theorem State.nextCycle_txPhase : (s.nextCycle).txPhase = s.txPhase := rfl
@[simp] theorem State.nextCycle_pkt : (s.nextCycle).pkt = s.pkt := rfl
@[simp] theorem State.nextCycle_bitIdx : (s.nextCycle).bitIdx = s.bitIdx := rfl
@[simp] theorem State.nextCycle_repCnt : (s.nextCycle).repCnt = s.repCnt := rfl
@[simp] theorem State.nextCycle_timer : (s.nextCycle).timer = s.timer := rfl
@[simp] theorem State.nextCycle_line : (s.nextCycle).line = s.line := rfl
@[simp] theorem State.nextCycle_addrQ : (s.nextCycle).addrQ = s.addrQ := rfl
@[simp] theorem State.nextCycle_cmdQ : (s.nextCycle).cmdQ = s.cmdQ := rfl
@[simp] theorem State.nextCycle_respCode : (s.nextCycle).respCode = s.respCode := rfl
@[simp] theorem State.nextCycle_inputs : (s.nextCycle).inputs = s.inputs.tail := rfl

/-! ### applyReset -/

@[simp] theorem State.applyReset_build : (s.applyReset).build = s.build := rfl
@[simp] theorem State.applyReset_seqState : (s.applyReset).seqState = .idle := rfl
@[simp] theorem State.applyReset_txPhase : (s.applyReset).txPhase = .low := rfl
@[simp] theorem State.applyReset_pkt : (s.applyReset).pkt = 0 := rfl
@[simp] theorem State.applyReset_bitIdx : (s.applyReset).bitIdx = 0 := rfl
@[simp] theorem State.applyReset_repCnt : (s.applyReset).repCnt = 0 := rfl
@[simp] theorem State.applyReset_timer : (s.applyReset).timer = 0 := rfl
@[simp] theorem State.applyReset_line : (s.applyReset).line = false := rfl
@[simp] theorem State.applyReset_addrQ : (s.applyReset).addrQ = 0 := rfl
@[simp] theorem State.applyReset_cmdQ : (s.applyReset).cmdQ = 0 := rfl
@[simp] theorem State.applyReset_respCode : (s.applyReset).respCode = .ok := rfl
@[simp] theorem State.applyReset_inputs : (s.applyReset).inputs = s.inputs := rfl

/-! ### latchRequest -/

@[simp] theorem State.latchRequest_build (p : PortIn) : (s.latchRequest p).build = s.build := rfl
@[simp] theorem State.latchRequest_seqState (p : PortIn) : (s.latchRequest p).seqState = .validating := rfl
@[simp] theorem State.latchRequest_txPhase (p : PortIn) : (s.latchRequest p).txPhase = s.txPhase := rfl
@[simp] theorem State.latchRequest_pkt (p : PortIn) : (s.latchRequest p).pkt = s.pkt := rfl
@[simp] theorem State.latchRequest_bitIdx (p : PortIn) : (s.latchRequest p).bitIdx = s.bitIdx := rfl
@[simp] theorem State.latchRequest_repCnt (p : PortIn) : (s.latchRequest p).repCnt = s.repCnt := rfl
@[simp] theorem State.latchRequest_timer (p : PortIn) : (s.latchRequest p).timer = s.timer := rfl
@[simp] theorem State.latchRequest_line (p : PortIn) : (s.latchRequest p).line = s.line := rfl
@[simp] theorem State.latchRequest_addrQ (p : PortIn) : (s.latchRequest p).addrQ = sampleAddr s.build p.reqAddr := rfl
@[simp] theorem State.latchRequest_cmdQ (p : PortIn) : (s.latchRequest p).cmdQ = sampleCmd s.build p.reqCmd := rfl
@[simp] theorem State.latchRequest_respCode (p : PortIn) : (s.latchRequest p).respCode = s.respCode := rfl
@[simp] theorem State.latchRequest_inputs (p : PortIn) : (s.latchRequest p).inputs = s.inputs := rfl

/-! ### raise -/

@[simp] theorem State.raise_build (e : ErrorKind) : (s.raise e).build = s.build := rfl
@[simp] theorem State.raise_seqState (e : ErrorKind) : (s.raise e).seqState = .rejected := rfl
@[simp] theorem State.raise_txPhase (e : ErrorKind) : (s.raise e).txPhase = s.txPhase := rfl
@[simp] theorem State.raise_pkt (e : ErrorKind) : (s.raise e).pkt = s.pkt := rfl
@[simp] theorem State.raise_bitIdx (e : ErrorKind) : (s.raise e).bitIdx = s.bitIdx := rfl
@[simp] theorem State.raise_repCnt (e : ErrorKind) : (s.raise e).repCnt = s.repCnt := rfl
@[simp] theorem State.raise_timer (e : ErrorKind) : (s.raise e).timer = s.timer := rfl
@[simp] theorem State.raise_line (e : ErrorKind) : (s.raise e).line = s.line := rfl
@[simp] theorem State.raise_addrQ (e : ErrorKind) : (s.raise e).addrQ = s.addrQ := rfl
@[simp] theorem State.raise_cmdQ (e : ErrorKind) : (s.raise e).cmdQ = s.cmdQ := rfl
@[simp] theorem State.raise_respCode (e : ErrorKind) : (s.raise e).respCode = e.respCode := rfl
@[simp] theorem State.raise_inputs (e : ErrorKind) : (s.raise e).inputs = s.inputs := rfl

/-! ### returnToIdle -/

@[simp] theorem State.returnToIdle_build : (s.returnToIdle).build = s.build := rfl
@[simp] theorem State.returnToIdle_seqState : (s.returnToIdle).seqState = .idle := rfl
@[simp] theorem State.returnToIdle_txPhase : (s.returnToIdle).txPhase = s.txPhase := rfl
@[simp] theorem State.returnToIdle_pkt : (s.returnToIdle).pkt = s.pkt := rfl
@[simp] theorem State.returnToIdle_bitIdx : (s.returnToIdle).bitIdx = s.bitIdx := rfl
@[simp] theorem State.returnToIdle_repCnt : (s.returnToIdle).repCnt = s.repCnt := rfl
@[simp] theorem State.returnToIdle_timer : (s.returnToIdle).timer = s.timer := rfl
@[simp] theorem State.returnToIdle_line : (s.returnToIdle).line = s.line := rfl
@[simp] theorem State.returnToIdle_addrQ : (s.returnToIdle).addrQ = s.addrQ := rfl
@[simp] theorem State.returnToIdle_cmdQ : (s.returnToIdle).cmdQ = s.cmdQ := rfl
@[simp] theorem State.returnToIdle_respCode : (s.returnToIdle).respCode = s.respCode := rfl
@[simp] theorem State.returnToIdle_inputs : (s.returnToIdle).inputs = s.inputs := rfl

/-! ### startTransmission -/

@[simp] theorem State.startTransmission_build (p : Packet) : (s.startTransmission p).build = s.build := rfl
@[simp] theorem State.startTransmission_seqState (p : Packet) : (s.startTransmission p).seqState = .transmitting := rfl
@[simp] theorem State.startTransmission_txPhase (p : Packet) : (s.startTransmission p).txPhase = .low := rfl
@[simp] theorem State.startTransmission_pkt (p : Packet) : (s.startTransmission p).pkt = p := rfl
@[simp] theorem State.startTransmission_bitIdx (p : Packet) : (s.startTransmission p).bitIdx = 0 := rfl
@[simp] theorem State.startTransmission_repCnt (p : Packet) : (s.startTransmission p).repCnt = 0 := rfl
@[simp] theorem State.startTransmission_timer (p : Packet) : (s.startTransmission p).timer = 0 := rfl
@[simp] theorem State.startTransmission_line (p : Packet) : (s.startTransmission p).line = s.line := rfl
@[simp] theorem State.startTransmission_addrQ (p : Packet) : (s.startTransmission p).addrQ = s.addrQ := rfl
@[simp] theorem State.startTransmission_cmdQ (p : Packet) : (s.startTransmission p).cmdQ = s.cmdQ := rfl
@[simp] theorem State.startTransmission_respCode (p : Packet) : (s.startTransmission p).respCode = s.respCode := rfl
@[simp] theorem State.startTransmission_inputs (p : Packet) : (s.startTransmission p).inputs = s.inputs := rfl

/-! ### lineWrite -/

@[simp] theorem State.lineWrite_build (v : Bool) : (s.lineWrite v).build = s.build := rfl
@[simp] theorem State.lineWrite_seqState (v : Bool) : (s.lineWrite v).seqState = s.seqState := rfl
@[simp] theorem State.lineWrite_txPhase (v : Bool) : (s.lineWrite v).txPhase = s.txPhase := rfl
@[simp] theorem State.lineWrite_pkt (v : Bool) : (s.lineWrite v).pkt = s.pkt := rfl
@[simp] theorem State.lineWrite_bitIdx (v : Bool) : (s.lineWrite v).bitIdx = s.bitIdx := rfl
@[simp] theorem State.lineWrite_repCnt (v : Bool) : (s.lineWrite v).repCnt = s.repCnt := rfl
@[simp] theorem State.lineWrite_timer (v : Bool) : (s.lineWrite v).timer = s.timer := rfl
@[simp] theorem State.lineWrite_line (v : Bool) : (s.lineWrite v).line = v := rfl
@[simp] theorem State.lineWrite_addrQ (v : Bool) : (s.lineWrite v).addrQ = s.addrQ := rfl
@[simp] theorem State.lineWrite_cmdQ (v : Bool) : (s.lineWrite v).cmdQ = s.cmdQ := rfl
@[simp] theorem State.lineWrite_respCode (v : Bool) : (s.lineWrite v).respCode = s.respCode := rfl
@[simp] theorem State.lineWrite_inputs (v : Bool) : (s.lineWrite v).inputs = s.inputs := rfl

/-! ### setHigh -/

@[simp] theorem State.setHigh_build : (s.setHigh).build = s.build := rfl
@[simp] theorem State.setHigh_seqState : (s.setHigh).seqState = s.seqState := rfl
@[simp] theorem State.setHigh_txPhase : (s.setHigh).txPhase = s.txPhase := rfl
@[simp] theorem State.setHigh_pkt : (s.setHigh).pkt = s.pkt := rfl
@[simp] theorem State.setHigh_bitIdx : (s.setHigh).bitIdx = s.bitIdx := rfl
@[simp] theorem State.setHigh_repCnt : (s.setHigh).repCnt = s.repCnt := rfl
@[simp] theorem State.setHigh_timer : (s.setHigh).timer = s.timer := rfl
@[simp] theorem State.setHigh_line : (s.setHigh).line = true := rfl
@[simp] theorem State.setHigh_addrQ : (s.setHigh).addrQ = s.addrQ := rfl
@[simp] theorem State.setHigh_cmdQ : (s.setHigh).cmdQ = s.cmdQ := rfl
@[simp] theorem State.setHigh_respCode : (s.setHigh).respCode = s.respCode := rfl
@[simp] theorem State.setHigh_inputs : (s.setHigh).inputs = s.inputs := rfl

/-! ### setLow -/

@[simp] theorem State.setLow_build : (s.setLow).build = s.build := rfl
@[simp] theorem State.setLow_seqState : (s.setLow).seqState = s.seqState := rfl
@[simp] theorem State.setLow_txPhase : (s.setLow).txPhase = s.txPhase := rfl
@[simp] theorem State.setLow_pkt : (s.setLow).pkt = s.pkt := rfl
@[simp] theorem State.setLow_bitIdx : (s.setLow).bitIdx = s.bitIdx := rfl
@[simp] theorem State.setLow_repCnt : (s.setLow).repCnt = s.repCnt := rfl
@[simp] theorem State.setLow_timer : (s.setLow).timer = s.timer := rfl
@[simp] theorem State.setLow_line : (s.setLow).line = false := rfl
@[simp] theorem State.setLow_addrQ : (s.setLow).addrQ = s.addrQ := rfl
@[simp] theorem State.setLow_cmdQ : (s.setLow).cmdQ = s.cmdQ := rfl
@[simp] theorem State.setLow_respCode : (s.setLow).respCode = s.respCode := rfl
@[simp] theorem State.setLow_inputs : (s.setLow).inputs = s.inputs := rfl

/-! ### countCycle -/

@[simp] theorem State.countCycle_build : (s.countCycle).build = s.build := rfl
@[simp] theorem State.countCycle_seqState : (s.countCycle).seqState = s.seqState := rfl
@[simp] theorem State.countCycle_txPhase : (s.countCycle).txPhase = s.txPhase := rfl
@[simp] theorem State.countCycle_pkt : (s.countCycle).pkt = s.pkt := rfl
@[simp] theorem State.countCycle_bitIdx : (s.countCycle).bitIdx = s.bitIdx := rfl
@[simp] theorem State.countCycle_repCnt : (s.countCycle).repCnt = s.repCnt := rfl
@[simp] theorem State.countCycle_timer : (s.countCycle).timer = timerNext s.build s.timer := rfl
@[simp] theorem State.countCycle_line : (s.countCycle).line = s.line := rfl
@[simp] theorem State.countCycle_addrQ : (s.countCycle).addrQ = s.addrQ := rfl
@[simp] theorem State.countCycle_cmdQ : (s.countCycle).cmdQ = s.cmdQ := rfl
@[simp] theorem State.countCycle_respCode : (s.countCycle).respCode = s.respCode := rfl
@[simp] theorem State.countCycle_inputs : (s.countCycle).inputs = s.inputs := rfl

/-! ### enterPhase -/

@[simp] theorem State.enterPhase_build (ph : TxPhase) : (s.enterPhase ph).build = s.build := rfl
@[simp] theorem State.enterPhase_seqState (ph : TxPhase) : (s.enterPhase ph).seqState = s.seqState := rfl
@[simp] theorem State.enterPhase_txPhase (ph : TxPhase) : (s.enterPhase ph).txPhase = ph := rfl
@[simp] theorem State.enterPhase_pkt (ph : TxPhase) : (s.enterPhase ph).pkt = s.pkt := rfl
@[simp] theorem State.enterPhase_bitIdx (ph : TxPhase) : (s.enterPhase ph).bitIdx = s.bitIdx := rfl
@[simp] theorem State.enterPhase_repCnt (ph : TxPhase) : (s.enterPhase ph).repCnt = s.repCnt := rfl
@[simp] theorem State.enterPhase_timer (ph : TxPhase) : (s.enterPhase ph).timer = 0 := rfl
@[simp] theorem State.enterPhase_line (ph : TxPhase) : (s.enterPhase ph).line = s.line := rfl
@[simp] theorem State.enterPhase_addrQ (ph : TxPhase) : (s.enterPhase ph).addrQ = s.addrQ := rfl
@[simp] theorem State.enterPhase_cmdQ (ph : TxPhase) : (s.enterPhase ph).cmdQ = s.cmdQ := rfl
@[simp] theorem State.enterPhase_respCode (ph : TxPhase) : (s.enterPhase ph).respCode = s.respCode := rfl
@[simp] theorem State.enterPhase_inputs (ph : TxPhase) : (s.enterPhase ph).inputs = s.inputs := rfl

/-! ### complete -/

@[simp] theorem State.complete_build : (s.complete).build = s.build := rfl
@[simp] theorem State.complete_seqState : (s.complete).seqState = .done := rfl
@[simp] theorem State.complete_txPhase : (s.complete).txPhase = s.txPhase := rfl
@[simp] theorem State.complete_pkt : (s.complete).pkt = s.pkt := rfl
@[simp] theorem State.complete_bitIdx : (s.complete).bitIdx = s.bitIdx := rfl
@[simp] theorem State.complete_repCnt : (s.complete).repCnt = s.repCnt := rfl
@[simp] theorem State.complete_timer : (s.complete).timer = 0 := rfl
@[simp] theorem State.complete_line : (s.complete).line = s.line := rfl
@[simp] theorem State.complete_addrQ : (s.complete).addrQ = s.addrQ := rfl
@[simp] theorem State.complete_cmdQ : (s.complete).cmdQ = s.cmdQ := rfl
@[simp] theorem State.complete_respCode : (s.complete).respCode = .ok := rfl
@[simp] theorem State.complete_inputs : (s.complete).inputs = s.inputs := rfl

/-! ### nextCopy -/

@[simp] theorem State.nextCopy_build : (s.nextCopy).build = s.build := rfl
@[simp] theorem State.nextCopy_seqState : (s.nextCopy).seqState = s.seqState := rfl
@[simp] theorem State.nextCopy_txPhase : (s.nextCopy).txPhase = .low := rfl
@[simp] theorem State.nextCopy_pkt : (s.nextCopy).pkt = s.pkt := rfl
@[simp] theorem State.nextCopy_bitIdx : (s.nextCopy).bitIdx = 0 := rfl
@[simp] theorem State.nextCopy_repCnt : (s.nextCopy).repCnt = s.repCnt + 1 := rfl
@[simp] theorem State.nextCopy_timer : (s.nextCopy).timer = 0 := rfl
@[simp] theorem State.nextCopy_line : (s.nextCopy).line = s.line := rfl
@[simp] theorem State.nextCopy_addrQ : (s.nextCopy).addrQ = s.addrQ := rfl
@[simp] theorem State.nextCopy_cmdQ : (s.nextCopy).cmdQ = s.cmdQ := rfl
@[simp] theorem State.nextCopy_respCode : (s.nextCopy).respCode = s.respCode := rfl
@[simp] theorem State.nextCopy_inputs : (s.nextCopy).inputs = s.inputs := rfl

/-! ### endLow -/

@[simp] theorem State.endLow_build : (s.endLow).build = s.build := rfl
@[simp] theorem State.endLow_seqState : (s.endLow).seqState = s.seqState := rfl
@[simp] theorem State.endLow_txPhase : (s.endLow).txPhase = .high := rfl
@[simp] theorem State.endLow_pkt : (s.endLow).pkt = s.pkt := rfl
@[simp] theorem State.endLow_bitIdx : (s.endLow).bitIdx = s.bitIdx := rfl
@[simp] theorem State.endLow_repCnt : (s.endLow).repCnt = s.repCnt := rfl
@[simp] theorem State.endLow_timer : (s.endLow).timer = 0 := rfl
@[simp] theorem State.endLow_line : (s.endLow).line = true := rfl
@[simp] theorem State.endLow_addrQ : (s.endLow).addrQ = s.addrQ := rfl
@[simp] theorem State.endLow_cmdQ : (s.endLow).cmdQ = s.cmdQ := rfl
@[simp] theorem State.endLow_respCode : (s.endLow).respCode = s.respCode := rfl
@[simp] theorem State.endLow_inputs : (s.endLow).inputs = s.inputs := rfl

end Sys2Proof.Machine
end

