-- ==== Sys2Proof/Laws/Ops.lean ====
section
/-! SUPPORT. What each shared operation can do, said once. -/

namespace Sys2Proof.Machine

/-! ### Phases -/

@[simp] theorem isLastCycle_iff (t n : Nat) : isLastCycle t n = true ↔ t + 1 = n := by
  simp [isLastCycle]

/-- Counting does not wrap while the count is below a length that fits the timer. -/
theorem timerNext_of_lt {c : Config} {t n : Nat} (h : t + 1 < n) (hn : n ≤ 2 ^ c.timerW) : timerNext c t = t + 1 :=
  Nat.mod_eq_of_lt (by omega)

theorem lowCycle_count {b : Bool} {s : State} (h : s.timer + 1 ≠ lowCycles s.build b) : lowCycle b s = s.countCycle := by
  simp [lowCycle, h]

theorem lowCycle_last {b : Bool} {s : State} (h : s.timer + 1 = lowCycles s.build b) : lowCycle b s = s.endLow := by
  simp [lowCycle, h]

theorem highCycle_count {b : Bool} {s : State} (h : s.timer + 1 ≠ highCycles s.build b) : highCycle b s = s.countCycle := by
  simp [highCycle, h]

theorem highCycle_last {b : Bool} {s : State} (h : s.timer + 1 = highCycles s.build b) : highCycle b s = s.endHigh := by
  simp [highCycle, h]

theorem gapCycle_count {s : State} (h : s.timer + 1 ≠ s.build.nGap) : gapCycle s = s.countCycle := by
  simp [gapCycle, h]

theorem gapCycle_last {s : State} (h : s.timer + 1 = s.build.nGap) : gapCycle s = s.endGap := by
  simp [gapCycle, h]

theorem endHigh_of_lastBit {s : State} (h : s.bitIdx = 12) : s.endHigh = { s with line := false, txPhase := .gap, timer := 0 } := by
  simp [State.endHigh, h, State.setLow, State.lineWrite, State.enterPhase]

theorem endHigh_of_moreBits {s : State} (h : s.bitIdx ≠ 12) :
    s.endHigh = { s with line := false, txPhase := .low, timer := 0, bitIdx := s.bitIdx + 1 } := by
  simp [State.endHigh, h, State.setLow, State.lineWrite, State.enterPhase]

theorem endGap_of_lastCopy {s : State} (h : s.repCnt + 1 = s.build.reps) : s.endGap = s.complete := by
  simp [State.endGap, h]

theorem endGap_of_moreCopies {s : State} (h : s.repCnt + 1 ≠ s.build.reps) : s.endGap = s.nextCopy := by
  simp [State.endGap, h]

/-! ### Commands -/

theorem issue_valid {sel : Nat} {code : Code} {a : Int} (s : State) (hc : romRead sel = some code) (ha : 0 ≤ a ∧ a ≤ 15) :
    issue sel a s = .next (s.startTransmission (buildPacket (addrEnc a) code)) := by
  simp [issue, hc, addrValid, ha]

theorem issue_badAddress {sel : Nat} {code : Code} {a : Int} (s : State) (hc : romRead sel = some code) (ha : ¬(0 ≤ a ∧ a ≤ 15)) :
    issue sel a s = .next (s.raise .addressOutOfRange) := by
  have : addrValid a = false := by simpa [addrValid] using ha
  simp [issue, hc, this]

/-- Whatever the selector and address, running a request answers a next state, one of three. -/
theorem issue_cases (sel : Nat) (a : Int) (s : State) :
    (romRead sel = none ∧ issue sel a s = .next (s.raise .commandNotFound)) ∨
    (∃ code, romRead sel = some code ∧ ¬(0 ≤ a ∧ a ≤ 15) ∧ issue sel a s = .next (s.raise .addressOutOfRange)) ∨
    (∃ code, romRead sel = some code ∧ (0 ≤ a ∧ a ≤ 15) ∧
      issue sel a s = .next (s.startTransmission (buildPacket (addrEnc a) code))) := by
  cases hc : romRead sel with
  | none => exact .inl ⟨rfl, by simp [issue, hc]⟩
  | some code =>
    by_cases ha : 0 ≤ a ∧ a ≤ 15
    · exact .inr (.inr ⟨code, rfl, ha, issue_valid s hc ha⟩)
    · exact .inr (.inl ⟨code, rfl, ha, issue_badAddress s hc ha⟩)

theorem romRead_eq_none {sel : Nat} : romRead sel = none ↔ 4 < sel := by
  match sel with
  | 0 | 1 | 2 | 3 | 4 => simp [romRead]
  | n + 5 => simp [romRead]

/-- The machine's decoder and its Command Table know the same selectors, and run them by the same operation. -/
theorem exec_decodeRequest {sel : Nat} {a : Int} {i : Instr} (s : State) (h : decodeRequest sel a = .ok i) :
    exec i s = issue sel a s ∧ sel ≤ 4 := by
  match sel, h with
  | 0, h => cases h; exact ⟨rfl, by omega⟩
  | 1, h => cases h; exact ⟨rfl, by omega⟩
  | 2, h => cases h; exact ⟨rfl, by omega⟩
  | 3, h => cases h; exact ⟨rfl, by omega⟩
  | 4, h => cases h; exact ⟨rfl, by omega⟩

theorem decodeRequest_error {sel : Nat} {a : Int} {e : DecodeError} (h : decodeRequest sel a = .error e) : 4 < sel := by
  match sel, h with
  | n + 5, _ => omega

theorem decodeRequest_error_of_lt {sel : Nat} (a : Int) (h : 4 < sel) : decodeRequest sel a = .error (.noSuchCommand sel) := by
  match sel, h with
  | n + 5, _ => rfl

theorem decodeRequest_ok_of_le {sel : Nat} (a : Int) (h : sel ≤ 4) : ∃ i, decodeRequest sel a = .ok i := by
  match sel, h with
  | 0, _ => exact ⟨_, rfl⟩
  | 1, _ => exact ⟨_, rfl⟩
  | 2, _ => exact ⟨_, rfl⟩
  | 3, _ => exact ⟨_, rfl⟩
  | 4, _ => exact ⟨_, rfl⟩

/-! ### Symbols -/

@[simp] theorem exec_decodeSymbol (b : Bool) (s : State) : exec (decodeSymbol b) s = symbolCycle b s := by
  cases b <;> rfl

theorem symbolCycle_low {b : Bool} {s : State} (hs : s.seqState = .transmitting) (hp : s.txPhase = .low) :
    symbolCycle b s = .next (lowCycle b s) := by
  simp [symbolCycle, hs, hp]

theorem symbolCycle_high {b : Bool} {s : State} (hs : s.seqState = .transmitting) (hp : s.txPhase = .high) :
    symbolCycle b s = .next (highCycle b s) := by
  simp [symbolCycle, hs, hp]

/-- A symbol's cycle completes only inside a symbol, in its low or its high phase. -/
theorem symbolCycle_next {b : Bool} {s t : State} (h : symbolCycle b s = .next t) :
    s.seqState = .transmitting ∧ ((s.txPhase = .low ∧ t = lowCycle b s) ∨ (s.txPhase = .high ∧ t = highCycle b s)) := by
  cases hs : s.seqState <;> cases hp : s.txPhase <;> simp [symbolCycle, hs, hp] at h <;> simp [h]

/-! ### Bits of a packet -/

/-- The bit placed at a position is the bit read there. -/
theorem packetBit_setPacketBit (p : Packet) (i : Fin 13) (b : Bool) : packetBit (setPacketBit p i b) i = b := by
  have hi : 12 - i.val < 13 := by omega
  cases b <;> simp [packetBit, setPacketBit, hi]

end Sys2Proof.Machine
end

