-- ==== Sys2Proof/Laws/PerInstr.lean ====
section
/-! SUPPORT. The per-instruction family WireLength: an instruction is encoded in thirteen bits or in one. -/

namespace Sys2Proof.Laws.WireLength

/-- The packet is always 13 bits, a symbol always one (30_encoding.md R92). -/
def Statement (i : Instr) : Prop := (encode i).length = if i = .sendBit1 ∨ i = .sendBit0 then 1 else 13

theorem light (a : Int) : Statement (.light a) := by simp [Statement, encode]
theorem fanOff (a : Int) : Statement (.fanOff a) := by simp [Statement, encode]
theorem fanLow (a : Int) : Statement (.fanLow a) := by simp [Statement, encode]
theorem fanMedium (a : Int) : Statement (.fanMedium a) := by simp [Statement, encode]
theorem fanHigh (a : Int) : Statement (.fanHigh a) := by simp [Statement, encode]
theorem sendBit1 : Statement .sendBit1 := by simp [Statement, encode]
theorem sendBit0 : Statement .sendBit0 := by simp [Statement, encode]

end Sys2Proof.Laws.WireLength
end

