-- ==== Sys2Proof/Laws/Step.lean ====
section
/-! SUPPORT. What one step does in each state, and the inversion lemma that says once everything a step can do. -/

namespace Sys2Proof.Machine

variable {s t : State}

theorem step_reset (h : s.ports.rst = true) : step s = .next s.nextCycle.applyReset := by
  simp [step, State.control, h]

theorem step_idle (hr : s.ports.rst = false) (h : s.seqState = .idle) : step s = .next (s.nextCycle.acceptRequest s.ports) := by
  simp [step, State.control, hr, h]

/-- VALIDATING runs the latched request, known command or not, by one operation (44_protocol_sequencer.md R172). -/
theorem step_validating (hr : s.ports.rst = false) (h : s.seqState = .validating) :
    step s = issue s.cmdQ s.addrQ s.nextCycle := by
  cases hd : decodeRequest s.cmdQ s.addrQ with
  | ok i => simp [step, State.control, hr, h, hd, (exec_decodeRequest s.nextCycle hd).1]
  | error e =>
    have hn : romRead s.cmdQ = none := romRead_eq_none.2 (decodeRequest_error hd)
    simp [step, State.control, hr, h, hd, issue, hn]

theorem step_low (hr : s.ports.rst = false) (h : s.seqState = .transmitting) (hp : s.txPhase = .low)
    (hc : s.repCnt < s.build.reps) : step s = .next (lowCycle s.currentBit s.nextCycle) := by
  have hc' : ¬ s.build.reps ≤ s.repCnt := by omega
  simp [step, State.control, hr, h, hp, hc', symbolCycle]

theorem step_high (hr : s.ports.rst = false) (h : s.seqState = .transmitting) (hp : s.txPhase = .high)
    (hc : s.repCnt < s.build.reps) : step s = .next (highCycle s.currentBit s.nextCycle) := by
  have hc' : ¬ s.build.reps ≤ s.repCnt := by omega
  simp [step, State.control, hr, h, hp, hc', symbolCycle]

theorem step_gap (hr : s.ports.rst = false) (h : s.seqState = .transmitting) (hp : s.txPhase = .gap)
    (hc : s.repCnt < s.build.reps) : step s = .next (gapCycle s.nextCycle) := by
  have hc' : ¬ s.build.reps ≤ s.repCnt := by omega
  simp [step, State.control, hr, h, hp, hc']

theorem step_stuck (hr : s.ports.rst = false) (h : s.seqState = .transmitting) (hc : s.build.reps ≤ s.repCnt) :
    step s = .fault .unreachableRepCnt := by
  simp [step, State.control, hr, h, hc]

theorem step_finish (hr : s.ports.rst = false) (h : s.seqState = .rejected ∨ s.seqState = .done) :
    step s = .next s.nextCycle.returnToIdle := by
  cases h with
  | inl h => simp [step, State.control, hr, h]
  | inr h => simp [step, State.control, hr, h]

/-- Everything a step that goes on can have done. -/
theorem step_cases (h : step s = .next t) :
    (s.ports.rst = true ∧ t = s.nextCycle.applyReset) ∨
    (s.ports.rst = false ∧
      ((s.seqState = .idle ∧ t = s.nextCycle.acceptRequest s.ports) ∨
       (s.seqState = .validating ∧ issue s.cmdQ s.addrQ s.nextCycle = .next t) ∨
       (s.seqState = .transmitting ∧ s.repCnt < s.build.reps ∧
         ((s.txPhase = .low ∧ t = lowCycle s.currentBit s.nextCycle) ∨
          (s.txPhase = .high ∧ t = highCycle s.currentBit s.nextCycle) ∨
          (s.txPhase = .gap ∧ t = gapCycle s.nextCycle))) ∨
       ((s.seqState = .rejected ∨ s.seqState = .done) ∧ t = s.nextCycle.returnToIdle))) := by
  cases hr : s.ports.rst with
  | true =>
    rw [step_reset hr] at h
    cases h
    exact .inl ⟨rfl, rfl⟩
  | false =>
    refine .inr ⟨rfl, ?_⟩
    cases hs : s.seqState with
    | idle =>
      rw [step_idle hr hs] at h
      cases h
      exact .inl ⟨rfl, rfl⟩
    | validating =>
      rw [step_validating hr hs] at h
      exact .inr (.inl ⟨rfl, h⟩)
    | transmitting =>
      refine .inr (.inr (.inl ⟨rfl, ?_⟩))
      by_cases hc : s.repCnt < s.build.reps
      · refine ⟨hc, ?_⟩
        cases hp : s.txPhase with
        | low =>
          rw [step_low hr hs hp hc] at h
          cases h
          exact .inl ⟨rfl, rfl⟩
        | high =>
          rw [step_high hr hs hp hc] at h
          cases h
          exact .inr (.inl ⟨rfl, rfl⟩)
        | gap =>
          rw [step_gap hr hs hp hc] at h
          cases h
          exact .inr (.inr ⟨rfl, rfl⟩)
      · rw [step_stuck hr hs (by omega)] at h
        cases h
    | rejected =>
      rw [step_finish hr (.inl hs)] at h
      cases h
      exact .inr (.inr (.inr ⟨.inl rfl, rfl⟩))
    | done =>
      rw [step_finish hr (.inr hs)] at h
      cases h
      exact .inr (.inr (.inr ⟨.inr rfl, rfl⟩))

end Sys2Proof.Machine
end

