-- ==== Sys2Proof/Laws/Run.lean ====
section
/-! SUPPORT. Runs and traces: how they compose, how they relate to the host's run, and a stretch of counting cycles inside one phase. -/

namespace Sys2Proof.Machine

variable {s t : State} {m n : Nat}

/-- The model's run is the host's. -/
theorem runCycles_eq_coreRun (n : Nat) (s : State) : runCycles n s = Host.Core.run core n s := by
  induction n generalizing s with
  | zero => rfl
  | succ n ih =>
    have hcore : core.step s = step s := rfl
    cases h : step s with
    | next t => simp only [runCycles, Host.Core.run, hcore, h]; exact ih t
    | fault r => simp only [runCycles, Host.Core.run, hcore, h]; rfl
    | refused r => simp only [runCycles, Host.Core.run, hcore, h]; rfl

theorem runCycles_succ (h : step s = .next t) : runCycles (n + 1) s = runCycles n t := by
  simp [runCycles, h]

/-- A run of `m + n` cycles is a run of `m` and then of `n`. -/
theorem runCycles_add (h : runCycles m s = .next t) : runCycles (m + n) s = runCycles n t := by
  induction m generalizing s with
  | zero =>
    cases h
    simp
  | succ m ih =>
    cases hs : step s with
    | next u =>
      rw [runCycles_succ hs] at h
      rw [show m + 1 + n = (m + n) + 1 by omega, runCycles_succ hs, ih h]
    | fault r => simp [runCycles, hs] at h
    | refused r => simp [runCycles, hs] at h

theorem traceOf_succ {α : Type} (f : State → α) (h : step s = .next t) : traceOf f (n + 1) s = f s :: traceOf f n t := by
  simp [traceOf, h]

/-- A trace of `m + n` cycles is the trace of `m` and then of `n`. -/
theorem traceOf_add {α : Type} (f : State → α) (h : runCycles m s = .next t) :
    traceOf f (m + n) s = traceOf f m s ++ traceOf f n t := by
  induction m generalizing s with
  | zero =>
    cases h
    simp [traceOf]
  | succ m ih =>
    cases hs : step s with
    | next u =>
      rw [runCycles_succ hs] at h
      rw [show m + 1 + n = (m + n) + 1 by omega, traceOf_succ f hs, traceOf_succ f hs, ih h, List.cons_append]
    | fault r => simp [runCycles, hs] at h
    | refused r => simp [runCycles, hs] at h

/-! ### Resets in the schedule -/

theorem State.NoReset.ports (h : s.NoReset n) (hn : 0 < n) : s.ports.rst = false := by
  unfold State.ports
  cases hi : s.inputs with
  | nil => rfl
  | cons p rest =>
    obtain ⟨k, rfl⟩ : ∃ k, n = k + 1 := ⟨n - 1, by omega⟩
    exact h p (by simp [hi])

theorem State.NoReset.mono (h : s.NoReset n) (hm : m ≤ n) : s.NoReset m :=
  fun p hp => h p (List.take_subset_take_left _ hm hp)

/-- The schedule after `m` cycles has no reset in what was left of the stretch. -/
theorem State.NoReset.drop (h : s.NoReset (m + n)) (ht : t.inputs = s.inputs.drop m) : t.NoReset n := by
  intro p hp
  rw [ht] at hp
  apply h p
  rw [List.take_add]
  exact List.mem_append_right _ hp

/-! ### Counting inside a phase -/

/-- One cycle of a phase that is not its last. -/
theorem step_counts (hr : s.ports.rst = false) (hs : s.seqState = .transmitting) (hc : s.repCnt < s.build.reps)
    (ht : s.timer + 1 < phaseCycles s.build s.currentBit s.txPhase)
    (hw : phaseCycles s.build s.currentBit s.txPhase ≤ 2 ^ s.build.timerW) :
    step s = .next { s with timer := s.timer + 1, inputs := s.inputs.tail } := by
  have hn := timerNext_of_lt ht hw
  cases hp : s.txPhase with
  | low =>
    rw [hp] at ht
    rw [step_low hr hs hp hc, lowCycle_count (s := s.nextCycle) (by simpa [phaseCycles] using ht.ne)]
    simp [State.countCycle, State.nextCycle, hn, hp]
  | high =>
    rw [hp] at ht
    rw [step_high hr hs hp hc, highCycle_count (s := s.nextCycle) (by simpa [phaseCycles] using ht.ne)]
    simp [State.countCycle, State.nextCycle, hn, hp]
  | gap =>
    rw [hp] at ht
    rw [step_gap hr hs hp hc, gapCycle_count (s := s.nextCycle) (by simpa [phaseCycles] using ht.ne)]
    simp [State.countCycle, State.nextCycle, hn, hp]

/-- `k` cycles inside one phase only count, and every output keeps its value over them. -/
theorem run_counts (k : Nat) (hs : s.seqState = .transmitting) (hc : s.repCnt < s.build.reps)
    (ht : s.timer + k < phaseCycles s.build s.currentBit s.txPhase)
    (hw : phaseCycles s.build s.currentBit s.txPhase ≤ 2 ^ s.build.timerW) (hr : s.NoReset k) :
    runCycles k s = .next { s with timer := s.timer + k, inputs := s.inputs.drop k } ∧
    ∀ {α : Type} (f : State → α), (∀ u : State, u.seqState = s.seqState → u.line = s.line → u.respCode = s.respCode → f u = f s) →
      traceOf f k s = List.replicate k (f s) := by
  induction k generalizing s with
  | zero => simp [runCycles, traceOf]
  | succ k ih =>
    have h1 := step_counts (hr.ports (by omega)) hs hc (by omega) hw
    have hr' : ({ s with timer := s.timer + 1, inputs := s.inputs.tail } : State).NoReset k :=
      State.NoReset.drop (m := 1) (by rwa [Nat.add_comm] at hr) (by simp)
    obtain ⟨h2, h3⟩ := ih (s := { s with timer := s.timer + 1, inputs := s.inputs.tail }) hs hc
      (by simp only; change s.timer + 1 + k < phaseCycles s.build s.currentBit s.txPhase; omega) hw hr'
    refine ⟨?_, fun f hf => ?_⟩
    · rw [runCycles_succ h1, h2]
      simp [Nat.add_assoc, Nat.add_comm 1 k]
    · have hf1 : f { s with timer := s.timer + 1, inputs := s.inputs.tail } = f s := hf _ rfl rfl rfl
      rw [traceOf_succ f h1, h3 f (fun u a b c => (hf u a b c).trans hf1.symm), hf1]
      rfl

end Sys2Proof.Machine
end

