-- ==== Sys2Proof/Laws/Phases.lean ====
section
/-! SUPPORT. A whole phase of TRANSMITTING: from its first cycle, `timer` 0, to the state in which the next phase starts. -/

namespace Sys2Proof.Machine

variable {s t : State} {n : Nat} {c : Config}

/-- What the proofs use of a valid build, in cycles. -/
theorem Config.Valid.cycles (h : c.Valid) :
    1 ≤ c.nShort ∧ c.nShort < c.nLong ∧ c.nLong ≤ 2 ^ c.timerW ∧ c.nGap ≤ 2 ^ c.timerW ∧ c.nSym < c.nGap ∧ 1 ≤ c.reps := by
  obtain ⟨⟨hreps, hclk, hshort, hwin, hgap⟩, -, -, -, -, htimer⟩ := h
  have hsym : c.nSym = c.tSymUs * c.clkMhz := by
    simp [Config.nSym, Config.nLong, Config.nShort, Config.tSymUs, Nat.add_mul]
  refine ⟨Nat.mul_pos hshort hclk, (Nat.mul_lt_mul_right hclk).2 (by omega), by omega, by omega, ?_, hreps⟩
  rw [hsym]
  exact (Nat.mul_lt_mul_right hclk).2 hgap

/-- Every phase lasts at least one cycle and `timer` is wide enough for it (10_state.md R42). -/
theorem phaseCycles_bounds (h : c.Valid) (b : Bool) (ph : TxPhase) :
    1 ≤ phaseCycles c b ph ∧ phaseCycles c b ph ≤ 2 ^ c.timerW := by
  obtain ⟨h1, h2, h3, h4, h5, -⟩ := Config.Valid.cycles h
  cases ph <;> cases b <;> simp [phaseCycles, lowCycles, highCycles] <;> omega

/-- Both symbols last `N_SYM` cycles (42_bit_transmitter.md R131). -/
theorem lowCycles_add_highCycles (c : Config) (b : Bool) : lowCycles c b + highCycles c b = c.nSym := by
  cases b <;> simp [lowCycles, highCycles, Config.nSym, Nat.add_comm]

/-- `f` depends on what the outputs depend on: `seq_state`, `line` and `resp_code` (00_scope.md R23). -/
def ReadsOutputsOnly {α : Type} (f : State → α) : Prop :=
  ∀ u v : State, u.seqState = v.seqState → u.line = v.line → u.respCode = v.respCode → f u = f v

/-- A phase of `n` cycles: all but the last count, and the last does what its step does. -/
theorem run_phase (hv : s.build.Valid) (hs : s.seqState = .transmitting) (hc : s.repCnt < s.build.reps) (ht : s.timer = 0)
    (hn : n = phaseCycles s.build s.currentBit s.txPhase) (hr : s.NoReset n)
    (hlast : step { s with timer := n - 1, inputs := s.inputs.drop (n - 1) } = .next t) :
    runCycles n s = .next t ∧
    ∀ {α : Type} (f : State → α), ReadsOutputsOnly f → traceOf f n s = List.replicate n (f s) := by
  obtain ⟨h1, h2⟩ := phaseCycles_bounds hv s.currentBit s.txPhase
  obtain ⟨k, rfl⟩ : ∃ k, n = k + 1 := ⟨n - 1, by omega⟩
  obtain ⟨hrun, htr⟩ := run_counts (s := s) k hs hc (by omega) h2 (hr.mono (by omega))
  rw [ht] at hrun
  simp only [Nat.zero_add] at hrun
  simp only [Nat.add_sub_cancel] at hlast
  refine ⟨?_, fun f hf => ?_⟩
  · rw [runCycles_add hrun, runCycles_succ hlast]
    rfl
  · rw [traceOf_add f hrun, htr f (fun u a b c => hf _ _ a b c), traceOf_succ f hlast,
      hf { s with timer := k, inputs := s.inputs.drop k } s rfl rfl rfl]
    simp [traceOf, List.replicate_succ']

/-- No reset in the last cycle of a stretch without one. -/
theorem State.NoReset.last (hr : s.NoReset n) (hn : 1 ≤ n) (ht : t.inputs = s.inputs.drop (n - 1)) : t.ports.rst = false :=
  State.NoReset.ports (n := 1) (State.NoReset.drop (m := n - 1) (by rwa [show n - 1 + 1 = n by omega]) ht) (by omega)

/-- The whole of a symbol's low phase (44_protocol_sequencer.md R173). -/
theorem run_low (hv : s.build.Valid) (hs : s.seqState = .transmitting) (hc : s.repCnt < s.build.reps) (hp : s.txPhase = .low)
    (ht : s.timer = 0) (hn : n = lowCycles s.build s.currentBit) (hr : s.NoReset n) :
    runCycles n s = .next { s with line := true, txPhase := .high, timer := 0, inputs := s.inputs.drop n } ∧
    ∀ {α : Type} (f : State → α), ReadsOutputsOnly f → traceOf f n s = List.replicate n (f s) := by
  have hpos := (phaseCycles_bounds hv s.currentBit .low).1
  simp only [phaseCycles] at hpos
  apply run_phase hv hs hc ht (by rw [hp]; exact hn) hr
  rw [step_low (s := { s with timer := n - 1, inputs := s.inputs.drop (n - 1) }) (hr.last (by omega) rfl) hs hp hc, lowCycle_last]
  · simp [State.endLow, State.setHigh, State.lineWrite, State.enterPhase, State.nextCycle]
    rw [Nat.sub_add_cancel (by omega)]
  · change n - 1 + 1 = lowCycles s.build s.currentBit
    omega

/-- The whole of a symbol's high phase (44_protocol_sequencer.md R174). -/
theorem run_high (hv : s.build.Valid) (hs : s.seqState = .transmitting) (hc : s.repCnt < s.build.reps) (hp : s.txPhase = .high)
    (ht : s.timer = 0) (hn : n = highCycles s.build s.currentBit) (hr : s.NoReset n) :
    runCycles n s = .next (if s.bitIdx = 12 then { s with line := false, txPhase := .gap, timer := 0, inputs := s.inputs.drop n }
      else { s with line := false, txPhase := .low, timer := 0, bitIdx := s.bitIdx + 1, inputs := s.inputs.drop n }) ∧
    ∀ {α : Type} (f : State → α), ReadsOutputsOnly f → traceOf f n s = List.replicate n (f s) := by
  have hpos := (phaseCycles_bounds hv s.currentBit .high).1
  simp only [phaseCycles] at hpos
  apply run_phase hv hs hc ht (by rw [hp]; exact hn) hr
  rw [step_high (s := { s with timer := n - 1, inputs := s.inputs.drop (n - 1) }) (hr.last (by omega) rfl) hs hp hc, highCycle_last]
  · by_cases hb : s.bitIdx = 12
    · rw [endHigh_of_lastBit (by simpa), if_pos hb]
      simp [State.nextCycle]
      rw [Nat.sub_add_cancel (by omega)]
    · rw [endHigh_of_moreBits (by simpa), if_neg hb]
      simp [State.nextCycle]
      rw [Nat.sub_add_cancel (by omega)]
  · change n - 1 + 1 = highCycles s.build s.currentBit
    omega

/-- The whole of a gap (44_protocol_sequencer.md R175). -/
theorem run_gap (hv : s.build.Valid) (hs : s.seqState = .transmitting) (hc : s.repCnt < s.build.reps) (hp : s.txPhase = .gap)
    (ht : s.timer = 0) (hn : n = s.build.nGap) (hr : s.NoReset n) :
    runCycles n s = .next (if s.repCnt + 1 = s.build.reps then
        { s with timer := 0, respCode := .ok, seqState := .done, inputs := s.inputs.drop n }
      else { s with txPhase := .low, timer := 0, repCnt := s.repCnt + 1, bitIdx := 0, inputs := s.inputs.drop n }) ∧
    ∀ {α : Type} (f : State → α), ReadsOutputsOnly f → traceOf f n s = List.replicate n (f s) := by
  have hpos := (phaseCycles_bounds hv s.currentBit .gap).1
  simp only [phaseCycles] at hpos
  apply run_phase hv hs hc ht (by rw [hp]; exact hn) hr
  rw [step_gap (s := { s with timer := n - 1, inputs := s.inputs.drop (n - 1) }) (hr.last (by omega) rfl) hs hp hc, gapCycle_last]
  · by_cases hb : s.repCnt + 1 = s.build.reps
    · rw [endGap_of_lastCopy (by simpa), if_pos hb]
      simp [State.nextCycle, State.complete]
      rw [Nat.sub_add_cancel (by omega)]
    · rw [endGap_of_moreCopies (by simpa), if_neg hb]
      simp [State.nextCycle, State.nextCopy, State.enterPhase]
      rw [Nat.sub_add_cancel (by omega)]
  · change n - 1 + 1 = s.build.nGap
    omega

end Sys2Proof.Machine
end

