-- ==== Sys2Proof/Tests/Slice0.lean ====
section
/-! SUPPORT. Small tests whose expected values are the spec's, and for each statement with hypotheses a witness that meets them. -/

namespace Sys2Proof.Tests
open Sys2Proof Sys2Proof.Machine Sys2Proof.Claims

/-! ## WellFormed: one ill-formed term for each check (30_encoding.md R90, 41_address_encoder.md R119) -/

theorem test_wf_light : (Instr.light 16).wellFormed = false ∧ (Instr.light (-1)).wellFormed = false := by decide
theorem test_wf_fanOff : (Instr.fanOff 18).wellFormed = false ∧ (Instr.fanOff 15).wellFormed = true := by decide
theorem test_wf_fanLow : (Instr.fanLow 256).wellFormed = false ∧ (Instr.fanLow 0).wellFormed = true := by decide
theorem test_wf_fanMedium : (Instr.fanMedium (-16)).wellFormed = false := by decide
theorem test_wf_fanHigh : (Instr.fanHigh 255).wellFormed = false := by decide
theorem test_wf_symbols : Instr.sendBit1.wellFormed = true ∧ Instr.sendBit0.wellFormed = true := by decide

/-! ## Decoding: words of 95_test_vectors.md 2.4 and the code map of 30_encoding.md R88, written out in wire order -/

-- V-PF-01
theorem test_decode_light :
    decode [true, false, true, true, false, true, true, true, true, true, true, true, false] = .ok (.light 2) := by decide
-- V-PF-04
theorem test_decode_fanOff :
    decode [true, false, false, false, false, false, true, true, true, true, true, false, true] = .ok (.fanOff 15) := by decide
-- V-PF-02
theorem test_decode_fanLow :
    decode [true, false, true, false, true, false, true, true, true, false, true, true, true] = .ok (.fanLow 5) := by decide
-- V-PF-05
theorem test_decode_fanMedium :
    decode [true, false, false, true, true, false, true, true, false, true, true, true, true] = .ok (.fanMedium 9) := by decide
-- V-PF-03
theorem test_decode_fanHigh :
    decode [true, false, true, true, true, true, true, false, true, true, true, true, true] = .ok (.fanHigh 0) := by decide
-- R84, R88
theorem test_decode_symbols : decode [true] = .ok .sendBit1 ∧ decode [false] = .ok .sendBit0 := by decide
-- V-PF-09: the code 111011, the preamble 00, the separator 0
theorem test_decode_refuses :
    decodePacket 0x16FB = .error (.notAPacket 0x16FB) ∧ decodePacket 0x06FE = .error (.notAPacket 0x06FE) ∧
    decodePacket 0x16BE = .error (.notAPacket 0x16BE) := by decide
-- R92: no other length
theorem test_decode_length : decode [] = .error (.noSuchLength 0) ∧ decode [true, false] = .error (.noSuchLength 2) := by decide
-- the host's numbering: 1 and 13 bits in one and two bytes (log 10)
theorem test_table_words :
    decodeTableWord 8 1 = some .sendBit1 ∧ decodeTableWord 8 0 = some .sendBit0 ∧ decodeTableWord 8 2 = none ∧
    decodeTableWord 16 0x16FE = some (.light 2) ∧ decodeTableWord 16 0x36FE = none := by decide

/-! ## Operands (95_test_vectors.md 2.1 to 2.4) -/

-- V-CT-06 to V-CT-12
theorem test_unknown_names :
    (["disco-mode", "Light", "FAN-HIGH", "", "light ", "fan_low", "fan"].map lookup) = List.replicate 7 none := by decide
-- 41_address_encoder.md R118
theorem test_address_table :
    ((List.range 16).map fun n => (addrEnc (n : Int)).toNat) = [15, 14, 13, 12, 11, 10, 9, 8, 7, 6, 5, 4, 3, 2, 1, 0] := by decide
-- V-AE-03, V-AE-06, V-AE-09
theorem test_address_not_truncated :
    encodeAddress 18 = none ∧ encodeAddress (-16) = none ∧ presentAddr Config.default (2 ^ 40) = -1 := by decide
-- V-BT boundaries of PhaseConforms
theorem test_phase_window :
    ([674, 675, 875, 876].map (phaseConforms Config.default 775)) = [false, true, true, false] ∧
    ([269, 270, 470, 471].map (phaseConforms Config.default 370)) = [false, true, true, false] := by decide
-- a measured 1-bit of V-BT: low 675 and high 470 conform, low 775 and high 471 do not
theorem test_symbol_window :
    symbolConforms Config.default true 675 470 = true ∧ symbolConforms Config.default true 775 471 = false := by decide
-- V-PF-01, V-PF-03, V-PF-04
theorem test_time_high :
    ([0x16FE, 0x17DF, 0x107D].map fun p => segsHighUs (packetSegs Config.default p)) = [6025, 5620, 7240] := by decide
-- V-PF-07, first three bits
theorem test_edge_times :
    (lineOpsFrom 0 (packetSegs Config.default 0x16FE)).take 6 =
      [(.setHigh, 775), (.setLow, 1145), (.setHigh, 1515), (.setLow, 2290), (.setHigh, 3065), (.setLow, 3435)] := by decide
-- V-L1-04, V-L1-05
theorem test_send_command_errors :
    sendCommand Config.default 16 "light" = (.addressOutOfRange, []) ∧
    sendCommand Config.default 5 "disco-mode" = (.commandNotFound, []) ∧
    sendCommand Config.default 16 "disco-mode" = (.commandNotFound, []) := by decide

/-! ## One step of each instruction -/

/-- The reset state with the request for address `a` and selector `sel` latched. -/
def latched (a : Int) (sel : Nat) : State := { State.reset with seqState := .validating, addrQ := a, cmdQ := sel }

/-- A transmission of the packet `p` of `build`, at the given position; `line` follows 10_state.md R52. -/
def sending (build : Config) (p : Packet) (ph : TxPhase) (bit : Fin 13) (rep t : Nat) : State :=
  { State.reset with build := build, seqState := .transmitting, pkt := p, txPhase := ph, bitIdx := bit, repCnt := rep,
                     timer := t, line := decide (ph = .high), addrQ := 2 }

/-- The registers a test compares. -/
structure View where
  seqState : SeqState
  txPhase : TxPhase
  pkt : Packet
  bitIdx : Fin 13
  timer : Nat
  line : Bool
  respCode : RespCode
  deriving DecidableEq, Repr

/-- The view of a next state, nothing of a stop. -/
def view : Host.Outcome State Fault Refusal → Option View
  | .next t => some ⟨t.seqState, t.txPhase, t.pkt, t.bitIdx, t.timer, t.line, t.respCode⟩
  | .fault _ => none
  | .refused _ => none

-- V-PS-01 and 44_protocol_sequencer.md R181 to R185, the examples
theorem test_light : view (step (latched 2 0)) = some ⟨.transmitting, .low, 0x16FE, 0, 0, false, .ok⟩ := by decide
theorem test_fanOff : view (step (latched 15 1)) = some ⟨.transmitting, .low, 0x107D, 0, 0, false, .ok⟩ := by decide
theorem test_fanLow : view (step (latched 5 2)) = some ⟨.transmitting, .low, 0x1577, 0, 0, false, .ok⟩ := by decide
theorem test_fanMedium : view (step (latched 9 3)) = some ⟨.transmitting, .low, 0x136F, 0, 0, false, .ok⟩ := by decide
theorem test_fanHigh : view (step (latched 0 4)) = some ⟨.transmitting, .low, 0x17DF, 0, 0, false, .ok⟩ := by decide
-- V-PS-02 to V-PS-06
theorem test_light_rejected : view (step (latched 16 0)) = some ⟨.rejected, .low, 0, 0, 0, false, .addressOutOfRange⟩ := by decide
theorem test_fanHigh_rejected : view (step (latched (-1) 4)) = some ⟨.rejected, .low, 0, 0, 0, false, .addressOutOfRange⟩ := by decide
theorem test_unknown_first : view (step (latched 16 7)) = some ⟨.rejected, .low, 0, 0, 0, false, .commandNotFound⟩ := by decide
-- V-PS-10, cycles 776 to 777 and 1146 to 1147: bit 0 of 0x16FE is 1
theorem test_sendBit1_low :
    view (step (sending Config.default 0x16FE .low 0 0 774)) = some ⟨.transmitting, .high, 0x16FE, 0, 0, true, .ok⟩ := by decide
theorem test_sendBit1_high :
    view (step (sending Config.default 0x16FE .high 0 0 369)) = some ⟨.transmitting, .low, 0x16FE, 1, 0, false, .ok⟩ := by decide
-- V-PS-10, cycles 1516 to 1517 and 14886 to 14887: bits 1 and 12 of 0x16FE are 0
theorem test_sendBit0_low :
    view (step (sending Config.default 0x16FE .low 1 0 369)) = some ⟨.transmitting, .high, 0x16FE, 1, 0, true, .ok⟩ := by decide
theorem test_sendBit0_high :
    view (step (sending Config.default 0x16FE .high 12 0 774)) = some ⟨.transmitting, .gap, 0x16FE, 12, 0, false, .ok⟩ := by decide
-- V-PS-10, cycles 24886 to 24887 and 124426 to 124427
theorem test_gap :
    view (step (sending Config.default 0x16FE .gap 12 0 9999)) = some ⟨.transmitting, .low, 0x16FE, 0, 0, false, .ok⟩ ∧
    view (step (sending Config.default 0x16FE .gap 12 4 9999)) = some ⟨.done, .gap, 0x16FE, 12, 0, false, .ok⟩ := by decide
-- P5: reset in the middle of a high phase
theorem test_reset_cuts :
    step { sending Config.default 0x16FE .high 0 0 123 with inputs := [⟨true, true, 2, 0⟩] } = .next State.reset := by
  rfl
-- the host's convention (log 9): the placed instruction runs in the first step after reset
theorem test_placed :
    view (step (State.reset.withFetchWord 16 0x16FE)) = some ⟨.transmitting, .low, 0x16FE, 0, 0, false, .ok⟩ ∧
    view (step (State.reset.withFetchWord 8 1)) = some ⟨.transmitting, .low, 0x1000, 0, 1, false, .ok⟩ ∧
    view (step (State.reset.withFetchWord 8 0)) = some ⟨.transmitting, .low, 0, 0, 1, false, .ok⟩ := by decide

/-! ## Witnesses: states and operands that meet the hypotheses of each statement -/

/-- A small build that R19's constraints allow: symbols of 3 cycles, gaps of 4, two copies, every width tight. -/
def tiny : Config where
  reps := 2
  tLongUs := 2
  tShortUs := 1
  tGapUs := 4
  tolUs := 0
  clkMhz := 1
  addrW := 6
  cmdW := 3
  timerW := 2
  repW := 1

theorem test_tiny_valid : tiny.Valid := by decide

/-- A request port value. -/
def request (a : Int) (sel : Nat) : PortIn := ⟨false, true, a, sel⟩

/-- The tiny build in IDLE with the given ports to come. -/
def idleWith (inputs : List PortIn) : State := { State.reset with build := tiny, inputs := inputs }

/-- With nothing scheduled there is no reset. -/
theorem quiet_noReset {s : State} (h : s.inputs = []) (n : Nat) : s.NoReset n := by
  intro p hp
  simp [h] at hp

/-- With one request scheduled there is no reset. -/
theorem request_noReset {s : State} {a : Int} {sel : Nat} (h : s.inputs = [request a sel]) (n : Nat) : s.NoReset n := by
  intro p hp
  have hmem := List.mem_of_mem_take hp
  rw [h, List.mem_singleton] at hmem
  rw [hmem]
  rfl

/-- The positions the tests use meet the invariant: the first and last cycle of a phase, the first and last copy. -/
theorem test_sending_inv :
    (sending tiny 0x16FE .low 0 0 0).Inv ∧ (sending tiny 0x16FE .low 0 1 1).Inv ∧ (sending tiny 0x16FE .high 12 1 1).Inv ∧
    (sending tiny 0x16FE .gap 12 0 3).Inv ∧ (sending tiny 0x16FE .gap 12 1 3).Inv :=
  ⟨⟨by decide, ⟨by decide, by decide, by decide, by decide⟩, by decide, fun _ => ⟨by decide, by decide, by decide⟩,
      fun _ => ⟨by decide, by decide, by decide, by decide, by decide, by decide⟩, by decide, by decide⟩,
   ⟨by decide, ⟨by decide, by decide, by decide, by decide⟩, by decide, fun _ => ⟨by decide, by decide, by decide⟩,
      fun _ => ⟨by decide, by decide, by decide, by decide, by decide, by decide⟩, by decide, by decide⟩,
   ⟨by decide, ⟨by decide, by decide, by decide, by decide⟩, by decide, fun _ => ⟨by decide, by decide, by decide⟩,
      fun _ => ⟨by decide, by decide, by decide, by decide, by decide, by decide⟩, by decide, by decide⟩,
   ⟨by decide, ⟨by decide, by decide, by decide, by decide⟩, by decide, fun _ => ⟨by decide, by decide, by decide⟩,
      fun _ => ⟨by decide, by decide, by decide, by decide, by decide, by decide⟩, by decide, by decide⟩,
   ⟨by decide, ⟨by decide, by decide, by decide, by decide⟩, by decide, fun _ => ⟨by decide, by decide, by decide⟩,
      fun _ => ⟨by decide, by decide, by decide, by decide, by decide, by decide⟩, by decide, by decide⟩⟩

/-- REJECTED and DONE in states the invariant allows. -/
def answered (q : SeqState) (r : RespCode) : State := { State.reset with build := tiny, seqState := q, respCode := r }

theorem test_answered_inv :
    (answered .rejected .commandNotFound).Inv ∧ (answered .rejected .addressOutOfRange).Inv ∧ (answered .done .ok).Inv :=
  ⟨⟨by decide, ⟨by decide, by decide, by decide, by decide⟩, by decide, fun h => (nomatch h), fun h => (nomatch h), by decide, by decide⟩,
   ⟨by decide, ⟨by decide, by decide, by decide, by decide⟩, by decide, fun h => (nomatch h), fun h => (nomatch h), by decide, by decide⟩,
   ⟨by decide, ⟨by decide, by decide, by decide, by decide⟩, by decide, fun h => (nomatch h), fun h => (nomatch h), by decide, by decide⟩⟩

/-! ### Encodings and operands -/

theorem witness_DecodeOfEncode :
    (Instr.light 0).wellFormed = true ∧ (Instr.fanHigh 15).wellFormed = true ∧ Instr.sendBit0.wellFormed = true := by decide
theorem witness_EncodeOfDecode :
    decode (packetBits 0x105F) = .ok (.fanHigh 15) ∧ decode (packetBits 0x17FE) = .ok (.light 0) ∧ decode [false] = .ok .sendBit0 := by
  decide
theorem witness_PacketDecodeReturnsOperands :
    (0x17FE#13 &&& 0x187F#13 = 0x107E#13 ∧ 0x107D#13 &&& 0x187F#13 = 0x107D#13 ∧ 0x1577#13 &&& 0x187F#13 = 0x1077#13 ∧
      0x136F#13 &&& 0x187F#13 = 0x106F#13 ∧ 0x17DF#13 &&& 0x187F#13 = 0x105F#13 ∧
      0x16FB#13 &&& 0x187F#13 ∉ [0x107E#13, 0x107D#13, 0x1077#13, 0x106F#13, 0x105F#13]) ∧
    ((0 : Int) ≤ 0 ∧ (0 : Int) ≤ 15 ∧ (15 : Int) ≤ 15 ∧ romRead 0 = some 0x3E ∧ romRead 4 = some 0x1F) ∧
    buildPacket (addrEnc 15) 0x1F = buildPacket (addrEnc 15) 0x1F := by decide
theorem witness_RequestDecodeOfEncode :
    (0, Instr.light 16, 0x3E) ∈ fiveCommands 16 ∧ (4, Instr.fanHigh (-1), 0x1F) ∈ fiveCommands (-1) ∧ 4 < 5 ∧
    encodeRequest (.fanHigh 16) = some (4, 16) := by decide
theorem witness_CommandTableIsClosed :
    "Light" ∉ ["light", "fan-off", "fan-low", "fan-medium", "fan-high"] ∧
    "" ∉ ["light", "fan-off", "fan-low", "fan-medium", "fan-high"] ∧
    romRead 0 = some 0x3E ∧ romRead 4 = some 0x1F ∧ romRead 5 = none := by decide
theorem witness_SelOfNameIsExact :
    "disco-mode" ∉ ["light", "fan-off", "fan-low", "fan-medium", "fan-high"] ∧
    (latched 16 5).ports.rst = false ∧ (latched 16 5).seqState = .validating ∧ (latched 16 5).cmdQ ∈ [5, 6, 7] ∧
    (latched 2 7).cmdQ ∈ [5, 6, 7] := by decide
theorem witness_AddressCheckCoversWholeWord :
    5 ≤ 5 ∧ (15#5) >>> 4 = 0 ∧ ¬(16#5) >>> 4 = 0 ∧ addrValid (15#5).toInt = true ∧ addrValid (16#5).toInt = false := by decide
theorem witness_AddressEncoderLaws :
    ((0 : Int) ≤ 0 ∧ (0 : Int) ≤ 15) ∧ ((0 : Int) ≤ 15 ∧ (15 : Int) ≤ 15) ∧ ¬((0 : Int) ≤ -1 ∧ (-1 : Int) ≤ 15) ∧
    ¬((0 : Int) ≤ 16 ∧ (16 : Int) ≤ 15) ∧ addrEnc 15 = 0 := by decide
theorem witness_PresentedAddressIsJudgedWhole :
    tiny.Valid ∧ Config.default.Valid ∧ (0 : Int) ≤ 15 ∧ addrRepresentable tiny 31 = true ∧ addrRepresentable tiny 32 = false := by decide
theorem witness_PacketLayout_PacketArithmetic :
    ((0 : Int) ≤ 0 ∧ (0 : Int) ≤ 15) ∧ ((0 : Int) ≤ 15 ∧ (15 : Int) ≤ 15) := by decide

/-! ### Commands -/

theorem witness_CommandStartsTransmission :
    ((0 : Int) ≤ 15 ∧ (15 : Int) ≤ 15 ∧ (4, Instr.fanHigh 15, 0x1F) ∈ fiveCommands 15) ∧
    ((0 : Int) ≤ 0 ∧ (0 : Int) ≤ 15 ∧ (0, Instr.light 0, 0x3E) ∈ fiveCommands 0) := by decide
theorem witness_CommandRejectsAddress :
    (¬((0 : Int) ≤ 16 ∧ (16 : Int) ≤ 15) ∧ (1, Instr.fanOff 16, 0x3D) ∈ fiveCommands 16) ∧
    (¬((0 : Int) ≤ -1 ∧ (-1 : Int) ≤ 15) ∧ (3, Instr.fanMedium (-1), 0x2F) ∈ fiveCommands (-1)) := by decide
theorem witness_CommandFrame :
    ((2, Instr.fanLow 15, 0x37) ∈ fiveCommands 15 ∧
      exec (.fanLow 15) (latched 15 2) = .next ((latched 15 2).startTransmission 0x1077)) ∧
    ((2, Instr.fanLow 16, 0x37) ∈ fiveCommands 16 ∧
      exec (.fanLow 16) (latched 16 2) = .next ((latched 16 2).raise .addressOutOfRange)) :=
  ⟨⟨by decide, rfl⟩, ⟨by decide, rfl⟩⟩
theorem witness_CommandRunsToCompletion :
    (idleWith []).build.Valid ∧ (idleWith []).line = false ∧ ((0 : Int) ≤ 15 ∧ (15 : Int) ≤ 15) ∧
    (idleWith []).NoReset (idleWith []).build.nTransmission ∧ (4, Instr.fanHigh 15, 0x1F) ∈ fiveCommands 15 :=
  ⟨by decide, rfl, by decide, quiet_noReset rfl _, by decide⟩

/-! ### Symbols: bit 0 of 0x16FE is 1, bit 12 is 0; the long phase of the tiny build is 2 cycles, the short one 1 -/

theorem witness_SymbolLowCycle :
    (sending tiny 0x16FE .low 0 0 1).seqState = .transmitting ∧ (sending tiny 0x16FE .low 0 0 1).txPhase = .low ∧
    (Instr.sendBit1, true) ∈ twoSymbols ∧ (Instr.sendBit0, false) ∈ twoSymbols ∧
    (sending tiny 0x16FE .low 0 0 1).timer + 1 = tiny.nLong ∧ (sending tiny 0x16FE .low 0 0 0).timer + 1 ≠ tiny.nLong ∧
    (sending tiny 0x16FE .low 1 0 0).timer + 1 = tiny.nShort ∧ (sending tiny 0x16FE .low 1 0 1).timer + 1 ≠ tiny.nShort := by decide
theorem witness_SymbolHighCycle :
    (sending tiny 0x16FE .high 12 0 1).seqState = .transmitting ∧ (sending tiny 0x16FE .high 12 0 1).txPhase = .high ∧
    (Instr.sendBit0, false) ∈ twoSymbols ∧ (sending tiny 0x16FE .high 12 0 1).timer + 1 = tiny.nLong ∧
    (sending tiny 0x16FE .high 12 0 1).bitIdx = 12 ∧ (sending tiny 0x16FE .high 11 0 1).bitIdx ≠ 12 ∧
    (sending tiny 0x16FE .high 12 0 0).timer + 1 ≠ tiny.nLong ∧ (Instr.sendBit1, true) ∈ twoSymbols ∧
    (sending tiny 0x16FE .high 0 0 0).timer + 1 = tiny.nShort ∧ (sending tiny 0x16FE .high 0 0 1).timer + 1 ≠ tiny.nShort := by decide
theorem witness_SymbolFrame :
    (Instr.sendBit1, true) ∈ twoSymbols ∧
    exec .sendBit1 (sending tiny 0x16FE .low 0 0 0) = .next { sending tiny 0x16FE .low 0 0 0 with timer := 1 } ∧
    exec .sendBit1 (sending tiny 0x16FE .low 0 0 1) = .next { sending tiny 0x16FE .low 0 0 1 with timer := 0, txPhase := .high, line := true } :=
  ⟨by decide, rfl, rfl⟩
theorem witness_SymbolWaveform :
    (tiny.Valid ∧ (sending tiny 0x16FE .low 12 1 0).seqState = .transmitting ∧ (sending tiny 0x16FE .low 12 1 0).txPhase = .low ∧
      (sending tiny 0x16FE .low 12 1 0).timer = 0 ∧ (sending tiny 0x16FE .low 12 1 0).line = false ∧
      (sending tiny 0x16FE .low 12 1 0).repCnt < tiny.reps ∧ (Instr.sendBit0, false) ∈ twoSymbols ∧
      (sending tiny 0x16FE .low 12 1 0).currentBit = false ∧ (sending tiny 0x16FE .low 0 1 0).currentBit = true) ∧
    (sending tiny 0x16FE .low 12 1 0).NoReset tiny.nSym ∧
    runCycles 0 (sending tiny 0x16FE .low 12 1 0) = .next (sending tiny 0x16FE .low 12 1 0) :=
  ⟨by decide, quiet_noReset rfl _, rfl⟩
theorem witness_SymbolNeedsTransmission :
    (State.reset.seqState ≠ .transmitting ∨ State.reset.txPhase = .gap) ∧ (sending tiny 0x16FE .gap 12 0 0).txPhase = .gap ∧
    (Instr.sendBit1, true) ∈ twoSymbols := by decide

/-! ### The step -/

theorem witness_StepRunsDecodedInstruction :
    ((latched 16 4).ports.rst = false ∧ (latched 16 4).seqState = .validating ∧
      decodeRequest (latched 16 4).cmdQ (latched 16 4).addrQ = .ok (.fanHigh 16)) ∧
    ((sending tiny 0x16FE .high 12 1 0).ports.rst = false ∧ (sending tiny 0x16FE .high 12 1 0).seqState = .transmitting ∧
      (sending tiny 0x16FE .high 12 1 0).txPhase ≠ .gap ∧ (sending tiny 0x16FE .high 12 1 0).repCnt < tiny.reps ∧
      decode [packetBit (sending tiny 0x16FE .high 12 1 0).pkt 12] = .ok .sendBit0) := by decide
theorem witness_PlacedWordRuns :
    1 ≤ State.reset.build.reps ∧ decodeTableWord 16 0x17FE = some (.light 0) ∧ decodeTableWord 16 0x105F = some (.fanHigh 15) ∧
    decodeTableWord 8 1 = some .sendBit1 := by decide
theorem witness_IdleAcceptsRequest :
    ((idleWith [request 16 5]).inputs = request 16 5 :: [] ∧ (request 16 5).rst = false ∧
      (idleWith [request 16 5]).seqState = .idle ∧ (request 16 5).reqValid = true) ∧
    ((idleWith [PortIn.quiet]).inputs = PortIn.quiet :: [] ∧ PortIn.quiet.rst = false ∧
      (idleWith [PortIn.quiet]).seqState = .idle ∧ PortIn.quiet.reqValid = false) := by decide
theorem witness_UnknownCommandIsReportedFirst :
    (latched 16 5).ports.rst = false ∧ (latched 16 5).seqState = .validating ∧ 4 < (latched 16 5).cmdQ ∧
    4 < (latched 2 7).cmdQ := by decide
theorem witness_GapCountsThenRepeatsOrCompletes :
    ((sending tiny 0x16FE .gap 12 0 3).ports.rst = false ∧ (sending tiny 0x16FE .gap 12 0 3).seqState = .transmitting ∧
      (sending tiny 0x16FE .gap 12 0 3).txPhase = .gap ∧ (sending tiny 0x16FE .gap 12 0 3).repCnt < tiny.reps ∧
      (sending tiny 0x16FE .gap 12 0 3).timer + 1 = tiny.nGap ∧ (sending tiny 0x16FE .gap 12 0 3).repCnt ≠ tiny.reps - 1) ∧
    ((sending tiny 0x16FE .gap 12 1 3).repCnt < tiny.reps ∧ (sending tiny 0x16FE .gap 12 1 3).timer + 1 = tiny.nGap ∧
      (sending tiny 0x16FE .gap 12 1 3).repCnt = tiny.reps - 1) ∧
    (sending tiny 0x16FE .gap 12 1 2).timer + 1 ≠ tiny.nGap := by decide
theorem witness_TerminalStatesLastOneCycle :
    ((answered .rejected .addressOutOfRange).Inv ∧
      ((answered .rejected .addressOutOfRange).seqState = .rejected ∨ (answered .rejected .addressOutOfRange).seqState = .done)) ∧
    ((answered .done .ok).Inv ∧ (answered .done .ok).seqState = .done ∧ (answered .done .ok).ports.rst = false) :=
  ⟨⟨test_answered_inv.2.1, .inl rfl⟩, ⟨test_answered_inv.2.2, rfl, rfl⟩⟩
theorem witness_ResetFromAnyState :
    ({ sending tiny 0x16FE .high 0 0 0 with inputs := [⟨true, true, 2, 0⟩] } : State).ports.rst = true ∧
    ({ latched 2 0 with inputs := [⟨true, false, 0, 0⟩] } : State).ports.rst = true := by decide
theorem witness_StateMachineFollowsTable :
    (step (latched 2 4) = .next ((latched 2 4).startTransmission 0x16DF) ∧ (latched 2 4).ports.rst = false ∧
      (latched 2 4).seqState = .validating ∧ ¬ 4 < (latched 2 4).cmdQ) ∧
    (step (latched 16 5) = .next ((latched 16 5).raise .commandNotFound) ∧ 4 < (latched 16 5).cmdQ) ∧
    step (latched 16 4) = .next ((latched 16 4).raise .addressOutOfRange) ∧
    (step (sending tiny 0x16FE .gap 12 1 3) = .next (sending tiny 0x16FE .gap 12 1 3).complete ∧
      (sending tiny 0x16FE .gap 12 1 3).complete.seqState = .done ∧ (sending tiny 0x16FE .gap 12 1 3).Inv) ∧
    (step (sending tiny 0x16FE .low 0 1 1) = .next (sending tiny 0x16FE .low 0 1 1).endLow ∧ (sending tiny 0x16FE .low 0 1 1).Inv) ∧
    (step { sending tiny 0x16FE .high 0 0 0 with inputs := [⟨true, false, 0, 0⟩] } = .next { State.reset with build := tiny } ∧
      ({ sending tiny 0x16FE .high 0 0 0 with inputs := [⟨true, false, 0, 0⟩] } : State).ports.rst = true) :=
  ⟨⟨rfl, rfl, rfl, by decide⟩, ⟨rfl, by decide⟩, rfl, ⟨rfl, rfl, test_sending_inv.2.2.2.2⟩, ⟨rfl, test_sending_inv.2.1⟩, ⟨rfl, rfl⟩⟩
theorem witness_BusyIgnoresRequestPorts :
    (sending tiny 0x16FE .low 0 0 0).seqState ≠ .idle ∧ (request 1 0).rst = PortIn.quiet.rst ∧ request 1 0 ≠ PortIn.quiet := by decide
theorem witness_RegistersWrittenOnlyInTheirStates :
    (step (latched 16 4) = .next ((latched 16 4).raise .addressOutOfRange) ∧ (latched 16 4).ports.rst = false ∧
      (latched 16 4).seqState ≠ .idle ∧ (latched 16 4).seqState ≠ .transmitting) ∧
    (step (answered .done .ok) = .next (answered .done .ok).returnToIdle ∧ (answered .done .ok).ports.rst = false ∧
      (answered .done .ok).seqState ≠ .validating ∧ (answered .done .ok).seqState ≠ .transmitting) :=
  ⟨⟨rfl, by decide⟩, ⟨rfl, by decide⟩⟩
theorem witness_LineChangesOnlyAtPhaseEnds :
    (step (sending tiny 0x16FE .low 0 0 1) = .next (sending tiny 0x16FE .low 0 0 1).endLow ∧
      (sending tiny 0x16FE .low 0 0 1).endLow.line ≠ (sending tiny 0x16FE .low 0 0 1).line) ∧
    (step (sending tiny 0x16FE .high 12 0 1) = .next (sending tiny 0x16FE .high 12 0 1).endHigh ∧
      (sending tiny 0x16FE .high 12 0 1).endHigh.line ≠ (sending tiny 0x16FE .high 12 0 1).line) ∧
    (step { sending tiny 0x16FE .high 0 0 0 with inputs := [⟨true, false, 0, 0⟩] } = .next { State.reset with build := tiny } ∧
      State.reset.line ≠ (sending tiny 0x16FE .high 0 0 0).line) :=
  ⟨⟨rfl, by decide⟩, ⟨rfl, by decide⟩, ⟨rfl, by decide⟩⟩
theorem witness_TimerCountsWithoutWrapping :
    ((sending tiny 0x16FE .gap 12 1 3).Inv ∧ (sending tiny 0x16FE .gap 12 1 3).ports.rst = false ∧
      (sending tiny 0x16FE .gap 12 1 3).seqState = .transmitting ∧
      step (sending tiny 0x16FE .gap 12 1 3) = .next (sending tiny 0x16FE .gap 12 1 3).complete) ∧
    ((sending tiny 0x16FE .low 0 0 0).Inv ∧
      step (sending tiny 0x16FE .low 0 0 0) = .next { sending tiny 0x16FE .low 0 0 0 with timer := 1 }) :=
  ⟨⟨test_sending_inv.2.2.2.2, rfl, rfl, rfl⟩, ⟨test_sending_inv.1, rfl⟩⟩

/-! ### The invariant and whole requests -/

theorem witness_StepKeepsInvariant :
    ((sending tiny 0x16FE .high 12 1 1).Inv ∧
      step (sending tiny 0x16FE .high 12 1 1) = .next (sending tiny 0x16FE .high 12 1 1).endHigh) ∧
    ((sending tiny 0x16FE .gap 12 0 3).Inv ∧
      step (sending tiny 0x16FE .gap 12 0 3) = .next (sending tiny 0x16FE .gap 12 0 3).nextCopy) :=
  ⟨⟨test_sending_inv.2.2.1, rfl⟩, ⟨test_sending_inv.2.2.2.1, rfl⟩⟩
theorem witness_InvariantStatesAlwaysStep : (sending tiny 0x16FE .low 0 1 1).Inv := test_sending_inv.2.1
theorem witness_StopsOnlyWithRepCntOutOfRange :
    (sending tiny 0x16FE .low 0 2 0).ports.rst = false ∧ (sending tiny 0x16FE .low 0 2 0).seqState = .transmitting ∧
    tiny.reps ≤ (sending tiny 0x16FE .low 0 2 0).repCnt ∧ step (sending tiny 0x16FE .low 0 2 0) = .fault .unreachableRepCnt :=
  ⟨rfl, rfl, by decide, rfl⟩
theorem witness_RejectedRequestTakesThreeCycles :
    ((idleWith [request 2 5]).seqState = .idle ∧ (idleWith [request 2 5]).inputs = request 2 5 :: [] ∧
      (request 2 5).reqValid = true ∧ (idleWith [request 2 5]).NoReset 3 ∧ 4 < sampleCmd tiny (request 2 5).reqCmd) ∧
    ((idleWith [request 16 4]).NoReset 3 ∧ sampleCmd tiny (request 16 4).reqCmd ≤ 4 ∧
      ¬(0 ≤ sampleAddr tiny (request 16 4).reqAddr ∧ sampleAddr tiny (request 16 4).reqAddr ≤ 15)) :=
  ⟨⟨rfl, rfl, rfl, request_noReset rfl _, by decide⟩, ⟨request_noReset rfl _, by decide, by decide⟩⟩
theorem witness_RequestMatchesSendCommand :
    (tiny.Valid ∧ (idleWith [PortIn.send tiny 16 "light"]).seqState = .idle ∧
      (idleWith [PortIn.send tiny 16 "light"]).line = false ∧
      sendCommand tiny 16 "light" = (.addressOutOfRange, []) ∧ 2 = 2 + segsUs [] * tiny.clkMhz) ∧
    ((idleWith [PortIn.send tiny 16 "light"]).NoReset 2) ∧
    (sendCommand tiny 16 "disco-mode" = (.commandNotFound, []) ∧ (idleWith [PortIn.send tiny 16 "disco-mode"]).NoReset 2) ∧
    (sendCommand tiny 15 "fan-high" = (.ok, transmissionSegs tiny 0x105F) ∧
      (idleWith [PortIn.send tiny 15 "fan-high"]).NoReset (2 + segsUs (transmissionSegs tiny 0x105F) * tiny.clkMhz)) :=
  ⟨by decide, request_noReset (a := 16) (sel := 0) rfl _, ⟨by decide, request_noReset (a := 16) (sel := 7) rfl _⟩,
   ⟨by decide, request_noReset (a := 15) (sel := 4) rfl _⟩⟩
theorem witness_TransmissionAlwaysEnds :
    (sending tiny 0x16FE .low 0 0 0).Inv ∧ (sending tiny 0x16FE .low 0 0 0).seqState = .transmitting ∧
    (sending tiny 0x16FE .low 0 0 0).NoReset tiny.nTransmission :=
  ⟨test_sending_inv.1, rfl, quiet_noReset rfl _⟩
theorem witness_LeftoversAreNeverVisible :
    (idleWith [request 2 0]).seqState = .idle ∧
    ({ idleWith [request 2 0] with pkt := 0x16FE, bitIdx := 12, repCnt := 1, txPhase := .gap, respCode := .commandNotFound } : State).inputs =
      (idleWith [request 2 0]).inputs ∧
    ({ idleWith [request 2 0] with pkt := 0x16FE, bitIdx := 12, repCnt := 1, txPhase := .gap, respCode := .commandNotFound } : State) ≠
      idleWith [request 2 0] := by decide
theorem witness_GapBetweenTransmissions :
    (tiny.Valid ∧ (sending tiny 0x16FE .gap 12 1 0).seqState = .transmitting ∧ (sending tiny 0x16FE .gap 12 1 0).txPhase = .gap ∧
      (sending tiny 0x16FE .gap 12 1 0).timer = 0 ∧ (sending tiny 0x16FE .gap 12 1 0).line = false ∧
      (sending tiny 0x16FE .gap 12 1 0).repCnt + 1 = tiny.reps) ∧
    (sending tiny 0x16FE .gap 12 1 0).NoReset (tiny.nGap + 3 + tiny.nLong) :=
  ⟨by decide, quiet_noReset rfl _⟩

/-! ### The call level -/

theorem witness_SendCommandResults :
    4 < selOfName "disco-mode" ∧ selOfName "fan-high" ≤ 4 ∧ ¬((0 : Int) ≤ 16 ∧ (16 : Int) ≤ 15) ∧
    lookup "fan-high" = some 0x1F ∧ ((0 : Int) ≤ 15 ∧ (15 : Int) ≤ 15) := by decide
theorem witness_TimeHighPerPacket :
    ((0 : Int) ≤ 15 ∧ (15 : Int) ≤ 15 ∧ romRead 1 = some 0x3D) ∧ ((0 : Int) ≤ 0 ∧ romRead 4 = some 0x1F) := by decide
theorem witness_ConformanceWindows :
    Config.default.Valid ∧ symbolConforms Config.default true 875 270 = true ∧ symbolConforms Config.default false 470 675 = true := by decide
theorem witness_LongPhaseBindsClockError :
    Config.default.Valid ∧ clockErrorFits Config.default Config.default.tLongUs 100 775 = true := by decide

end Sys2Proof.Tests
end

section
/-! PROOFS. Durations derived from the build parameters (00_scope.md R20), for every build and at the defaults. -/

namespace Sys2Proof

/-! ### Microseconds and cycles, for every build -/

/-- A symbol's cycles are its microseconds times the clock, whatever the split into phases (00_scope.md R20). -/
theorem Config.nSym_eq_tSymUs_mul_clkMhz (c : Config) : c.nSym = c.tSymUs * c.clkMhz :=
  (Nat.add_mul c.tLongUs c.tShortUs c.clkMhz).symm

theorem Config.nRep_eq_tRepUs_mul_clkMhz (c : Config) : c.nRep = c.tRepUs * c.clkMhz := by
  calc c.nRep = 13 * (c.tSymUs * c.clkMhz) + c.tGapUs * c.clkMhz := by rw [Config.nRep, c.nSym_eq_tSymUs_mul_clkMhz, Config.nGap]
    _ = (13 * c.tSymUs + c.tGapUs) * c.clkMhz := by ring

theorem Config.nTransmission_eq_tTransmissionUs_mul_clkMhz (c : Config) : c.nTransmission = c.tTransmissionUs * c.clkMhz := by
  rw [Config.nTransmission, Config.tTransmissionUs, c.nRep_eq_tRepUs_mul_clkMhz, Nat.mul_assoc]

/-- The repeat count scales a transmission and leaves a repetition as it is. -/
theorem Config.tTransmissionUs_withReps (c : Config) (r : Nat) : ({ c with reps := r } : Config).tTransmissionUs = r * c.tRepUs := rfl

/-- The two symbols swap their phases, so they last equally long (42_bit_transmitter.md R129). -/
theorem Machine.lowUs_add_highUs (c : Config) (b : Bool) : Machine.lowUs c b + Machine.highUs c b = c.tSymUs := by
  cases b with
  | false => exact Nat.add_comm c.tShortUs c.tLongUs
  | true => rfl

/-! ### The defaults -/

theorem Config.default_tSymUs : Config.default.tSymUs = 1145 := rfl

theorem Config.default_tGapUs : Config.default.tGapUs = 10000 := rfl

theorem Config.default_tPacketUs : Config.default.tPacketUs = 14885 := by
  rw [Config.tPacketUs, Config.default_tSymUs]

theorem Config.default_tRepUs : Config.default.tRepUs = 24885 := by
  rw [Config.tRepUs, Config.default_tPacketUs, Config.default_tGapUs]

theorem Config.default_tTransmissionUs_withReps (r : Nat) : ({ Config.default with reps := r } : Config).tTransmissionUs = r * 24885 := by
  rw [Config.tTransmissionUs_withReps, Config.default_tRepUs]

/-- At 1 MHz a cycle is a microsecond (70_reset_and_hazards.md R237). -/
theorem Config.default_clkMhz : Config.default.clkMhz = 1 := rfl

theorem Config.default_nTransmission : Config.default.nTransmission = 124425 := by
  rw [Config.nTransmission_eq_tTransmissionUs_mul_clkMhz, Config.default_clkMhz, Nat.mul_one]
  exact Config.default_tTransmissionUs_withReps 5

/-- The clock rate scales a symbol's cycles; the timer's width has no part in them. -/
theorem Config.default_nSym_withClkMhz (m w : Nat) : ({ Config.default with clkMhz := m, timerW := w } : Config).nSym = 1145 * m :=
  Config.nSym_eq_tSymUs_mul_clkMhz _

end Sys2Proof

namespace Sys2Proof.Claims
open Sys2Proof.Machine

/-- Settles O52, from the sums that hold for every build, taken at the defaults of R19. -/
theorem durationsAtDefaults : Obligations.DurationsAtDefaults := by
  unfold Obligations.DurationsAtDefaults
  refine ⟨fun b => ?symbol, Config.default_tSymUs, Config.default_nSym_withClkMhz 1 14, Config.default_tPacketUs,
    Config.default_tRepUs, Config.default.tTransmissionUs_withReps, Config.default_tTransmissionUs_withReps 5,
    Config.default_tTransmissionUs_withReps 3, ?long, ?short, ?gap, Config.default_nTransmission, ?threeRepetitionsValid,
    Config.default_nSym_withClkMhz 4 16⟩
  case symbol => rw [lowUs_add_highUs, Config.default_tSymUs]
  case long | short | gap => rfl
  case threeRepetitionsValid => decide

end Sys2Proof.Claims
end

section
/-! PROOFS. What a cycle can do, in the form the statements about the registers use: an accepted or absent request, a
validation's outcome, and a cycle of TRANSMITTING that counts or ends its phase. -/

namespace Sys2Proof.Machine

variable {s t : State} {b : Bool}

/-- IDLE latches the request or writes nothing (44_protocol_sequencer.md R171). -/
theorem State.acceptRequest_cases (s : State) (p : PortIn) :
    (p.reqValid = true ∧ s.acceptRequest p = s.latchRequest p) ∨ (p.reqValid = false ∧ s.acceptRequest p = s) := by
  cases h : p.reqValid <;> simp [State.acceptRequest, h]

/-- The Command Table has entries for selectors 0 to 4 only (20_memory.md R62). -/
theorem le_of_romRead_eq_some {sel : Nat} {code : Code} (h : romRead sel = some code) : sel ≤ 4 := by
  by_contra hgt
  rw [romRead_eq_none.2 (by omega)] at h
  cases h

/-- The outcome of a validation, read back from the state it answers (44_protocol_sequencer.md R172). -/
theorem issue_next {sel : Nat} {a : Int} (h : issue sel a s = .next t) :
    (4 < sel ∧ t = s.raise .commandNotFound) ∨
    (sel ≤ 4 ∧ ¬(0 ≤ a ∧ a ≤ 15) ∧ t = s.raise .addressOutOfRange) ∨
    (sel ≤ 4 ∧ (0 ≤ a ∧ a ≤ 15) ∧ ∃ code, romRead sel = some code ∧ t = s.startTransmission (buildPacket (addrEnc a) code)) := by
  obtain ⟨hc, hi⟩ | ⟨code, hc, ha, hi⟩ | ⟨code, hc, ha, hi⟩ := issue_cases sel a s
  · rw [hi] at h
    cases h
    exact .inl ⟨romRead_eq_none.1 hc, rfl⟩
  · rw [hi] at h
    cases h
    exact .inr (.inl ⟨le_of_romRead_eq_some hc, ha, rfl⟩)
  · rw [hi] at h
    cases h
    exact .inr (.inr ⟨le_of_romRead_eq_some hc, ha, code, hc, rfl⟩)

/-- What a cycle of TRANSMITTING with the bit `b` in progress can do, ports apart: count inside the phase, or, in the
phase's last cycle, enter what follows it (44_protocol_sequencer.md R173 to R175). -/
inductive PhaseStep (b : Bool) (s : State) : State → Prop where
  | count (ht : s.timer + 1 ≠ phaseCycles s.build b s.txPhase) : PhaseStep b s s.countCycle
  | endLow (hp : s.txPhase = .low) (ht : s.timer + 1 = phaseCycles s.build b s.txPhase) : PhaseStep b s s.endLow
  | nextBit (hp : s.txPhase = .high) (ht : s.timer + 1 = phaseCycles s.build b s.txPhase) (hb : s.bitIdx ≠ 12) :
      PhaseStep b s { s with line := false, txPhase := .low, timer := 0, bitIdx := s.bitIdx + 1 }
  | startGap (hp : s.txPhase = .high) (ht : s.timer + 1 = phaseCycles s.build b s.txPhase) (hb : s.bitIdx = 12) :
      PhaseStep b s { s with line := false, txPhase := .gap, timer := 0 }
  | nextCopy (hp : s.txPhase = .gap) (ht : s.timer + 1 = phaseCycles s.build b s.txPhase)
      (hc : s.repCnt + 1 ≠ s.build.reps) : PhaseStep b s s.nextCopy
  | complete (hp : s.txPhase = .gap) (ht : s.timer + 1 = phaseCycles s.build b s.txPhase)
      (hc : s.repCnt + 1 = s.build.reps) : PhaseStep b s s.complete

theorem lowCycle_phaseStep (hp : s.txPhase = .low) : PhaseStep b s (lowCycle b s) := by
  have hn : phaseCycles s.build b s.txPhase = lowCycles s.build b := by rw [hp]; rfl
  by_cases ht : s.timer + 1 = lowCycles s.build b
  · rw [lowCycle_last ht]
    exact .endLow hp (hn ▸ ht)
  · rw [lowCycle_count ht]
    exact .count (hn ▸ ht)

theorem highCycle_phaseStep (hp : s.txPhase = .high) : PhaseStep b s (highCycle b s) := by
  have hn : phaseCycles s.build b s.txPhase = highCycles s.build b := by rw [hp]; rfl
  by_cases ht : s.timer + 1 = highCycles s.build b
  · rw [highCycle_last ht]
    by_cases hb : s.bitIdx = 12
    · rw [endHigh_of_lastBit hb]
      exact .startGap hp (hn ▸ ht) hb
    · rw [endHigh_of_moreBits hb]
      exact .nextBit hp (hn ▸ ht) hb
  · rw [highCycle_count ht]
    exact .count (hn ▸ ht)

theorem gapCycle_phaseStep (b : Bool) (hp : s.txPhase = .gap) : PhaseStep b s (gapCycle s) := by
  have hn : phaseCycles s.build b s.txPhase = s.build.nGap := by rw [hp]; rfl
  by_cases ht : s.timer + 1 = s.build.nGap
  · rw [gapCycle_last ht]
    by_cases hc : s.repCnt + 1 = s.build.reps
    · rw [endGap_of_lastCopy hc]
      exact .complete hp (hn ▸ ht) hc
    · rw [endGap_of_moreCopies hc]
      exact .nextCopy hp (hn ▸ ht) hc
  · rw [gapCycle_count ht]
    exact .count (hn ▸ ht)

/-- A symbol that runs is a cycle of its low or its high phase. -/
theorem symbolCycle_phaseStep (h : symbolCycle b s = .next t) :
    s.seqState = .transmitting ∧ s.txPhase ≠ .gap ∧ PhaseStep b s t := by
  obtain ⟨hs, ⟨hp, rfl⟩ | ⟨hp, rfl⟩⟩ := symbolCycle_next h
  · exact ⟨hs, by simp [hp], lowCycle_phaseStep hp⟩
  · exact ⟨hs, by simp [hp], highCycle_phaseStep hp⟩

/-- TRANSMITTING, every phase: a cycle of the bit in progress. -/
theorem step_transmitting (hr : s.ports.rst = false) (hs : s.seqState = .transmitting) (hc : s.repCnt < s.build.reps) :
    ∃ t, step s = .next t ∧ PhaseStep s.currentBit s.nextCycle t := by
  cases hp : s.txPhase with
  | low => exact ⟨_, step_low hr hs hp hc, lowCycle_phaseStep hp⟩
  | high => exact ⟨_, step_high hr hs hp hc, highCycle_phaseStep hp⟩
  | gap => exact ⟨_, step_gap hr hs hp hc, gapCycle_phaseStep _ hp⟩

/-- The converse: what `PhaseStep` allows of the current bit is what the step does. -/
theorem step_of_phaseStep (hr : s.ports.rst = false) (hs : s.seqState = .transmitting) (hc : s.repCnt < s.build.reps)
    (h : PhaseStep s.currentBit s.nextCycle t) : step s = .next t := by
  cases h with
  | count ht =>
    cases hp : s.nextCycle.txPhase with
    | low =>
      rw [hp] at ht
      rw [step_low hr hs hp hc, lowCycle_count ht]
    | high =>
      rw [hp] at ht
      rw [step_high hr hs hp hc, highCycle_count ht]
    | gap =>
      rw [hp] at ht
      rw [step_gap hr hs hp hc, gapCycle_count ht]
  | endLow hp ht =>
    rw [hp] at ht
    rw [step_low hr hs hp hc, lowCycle_last ht]
  | nextBit hp ht hb =>
    rw [hp] at ht
    rw [step_high hr hs hp hc, highCycle_last ht, endHigh_of_moreBits hb]
  | startGap hp ht hb =>
    rw [hp] at ht
    rw [step_high hr hs hp hc, highCycle_last ht, endHigh_of_lastBit hb]
  | nextCopy hp ht hcopy =>
    rw [hp] at ht
    rw [step_gap hr hs hp hc, gapCycle_last ht, endGap_of_moreCopies hcopy]
  | complete hp ht hcopy =>
    rw [hp] at ht
    rw [step_gap hr hs hp hc, gapCycle_last ht, endGap_of_lastCopy hcopy]

/-- In TRANSMITTING a step that goes on is a cycle of the bit in progress, of a copy within the count. -/
theorem step_transmitting_next (hr : s.ports.rst = false) (hs : s.seqState = .transmitting) (h : step s = .next t) :
    s.repCnt < s.build.reps ∧ PhaseStep s.currentBit s.nextCycle t := by
  by_cases hc : s.repCnt < s.build.reps
  · obtain ⟨u, hu, hstep⟩ := step_transmitting hr hs hc
    rw [h] at hu
    cases hu
    exact ⟨hc, hstep⟩
  · rw [step_stuck hr hs (by omega)] at h
    cases h

/-- Everything a step that goes on can have done, one case per row of the state machine (44_protocol_sequencer.md R170). -/
theorem step_next_cases (h : step s = .next t) :
    (s.ports.rst = true ∧ t = s.nextCycle.applyReset) ∨
    (s.ports.rst = false ∧
      ((s.seqState = .idle ∧ t = s.nextCycle.acceptRequest s.ports) ∨
       (s.seqState = .validating ∧ issue s.cmdQ s.addrQ s.nextCycle = .next t) ∨
       (s.seqState = .transmitting ∧ s.repCnt < s.build.reps ∧ PhaseStep s.currentBit s.nextCycle t) ∨
       ((s.seqState = .rejected ∨ s.seqState = .done) ∧ t = s.nextCycle.returnToIdle))) := by
  refine (step_cases h).imp_right fun ⟨hr, hcases⟩ => ⟨hr, ?_⟩
  exact hcases.imp_right (Or.imp_right (Or.imp_left fun ⟨hs, _⟩ => ⟨hs, step_transmitting_next hr hs h⟩))

/-- No cycle of TRANSMITTING writes the build, the ports to come, the packet or the latched request (10_state.md R39, R44). -/
theorem PhaseStep.frame (h : PhaseStep b s t) :
    t.build = s.build ∧ t.inputs = s.inputs ∧ t.pkt = s.pkt ∧ t.addrQ = s.addrQ ∧ t.cmdQ = s.cmdQ := by
  cases h with
  | count | endLow | nextBit | startGap | nextCopy | complete => exact ⟨rfl, rfl, rfl, rfl, rfl⟩

/-- A phase's end restarts `timer`, any other cycle counts (10_state.md R42). -/
theorem PhaseStep.timer_eq (h : PhaseStep b s t) :
    t.timer = if s.timer + 1 = phaseCycles s.build b s.txPhase then 0 else timerNext s.build s.timer := by
  cases h with
  | count ht => simp [ht]
  | endLow _ ht | nextBit _ ht | startGap _ ht | nextCopy _ ht | complete _ ht => simp [ht]

/-- No phase outlasts the longer of a long half of a symbol and the gap (10_state.md R42). -/
theorem phaseCycles_le_max {c : Config} (h : c.Valid) (b : Bool) (ph : TxPhase) :
    phaseCycles c b ph ≤ max c.nLong c.nGap := by
  obtain ⟨-, hshort, -⟩ := Config.Valid.cycles h
  cases ph <;> cases b <;> simp [phaseCycles, lowCycles, highCycles, hshort.le]

/-- Inside a transmission the line changes at the end of a low phase, to 1, and at the end of a high phase, to 0
(42_bit_transmitter.md R126). -/
theorem PhaseStep.line_edge (h : PhaseStep b s t) (hl : t.line ≠ s.line) :
    (s.txPhase = .low ∧ s.timer + 1 = lowCycles s.build b ∧ t.line = true) ∨
    (s.txPhase = .high ∧ s.timer + 1 = highCycles s.build b ∧ t.line = false) := by
  cases h with
  | count | nextCopy | complete => exact absurd rfl hl
  | endLow hp ht =>
    rw [hp] at ht
    exact .inl ⟨hp, ht, rfl⟩
  | nextBit hp ht | startGap hp ht =>
    rw [hp] at ht
    exact .inr ⟨hp, ht, rfl⟩

/-- TRANSMITTING is left in the last cycle of the last copy's gap (44_protocol_sequencer.md R175). -/
theorem PhaseStep.seqState_eq (h : PhaseStep b s t) :
    t.seqState = if s.txPhase = .gap ∧ s.timer + 1 = s.build.nGap ∧ s.repCnt + 1 = s.build.reps then .done else s.seqState := by
  cases h with
  | count ht =>
    rw [if_neg]
    · rfl
    · rintro ⟨hp, hgap, -⟩
      rw [hp] at ht
      exact ht hgap
  | endLow hp => simp [hp]
  | nextBit hp | startGap hp => simp [hp]
  | nextCopy _ _ hc => simp [hc]
  | complete hp ht hc =>
    rw [hp] at ht
    exact (if_pos ⟨hp, ht, hc⟩).symm

/-- The code a validation leaves (60_exceptions.md R191, R192). -/
theorem step_validating_respCode (hr : s.ports.rst = false) (hs : s.seqState = .validating) (h : step s = .next t) :
    t.respCode = if 4 < s.cmdQ then .commandNotFound else if 0 ≤ s.addrQ ∧ s.addrQ ≤ 15 then s.respCode else .addressOutOfRange := by
  rw [step_validating hr hs] at h
  obtain ⟨hsel, rfl⟩ | ⟨hsel, ha, rfl⟩ | ⟨hsel, ha, code, -, rfl⟩ := issue_next h
  · rw [if_pos hsel]
    rfl
  · rw [if_neg (by omega), if_neg ha]
    rfl
  · rw [if_neg (by omega), if_pos ha]
    rfl

/-- DONE is entered by completing a transmission only, which writes OK (44_protocol_sequencer.md R175). -/
theorem step_respCode_of_done (h : step s = .next t) (hd : t.seqState = .done) : t.respCode = .ok := by
  obtain ⟨-, rfl⟩ | ⟨-, ⟨hs, rfl⟩ | ⟨hs, hi⟩ | ⟨hs, -, hp⟩ | ⟨-, rfl⟩⟩ := step_next_cases h
  · rfl
  · obtain ⟨-, he⟩ | ⟨-, he⟩ := s.nextCycle.acceptRequest_cases s.ports <;> simp [he, hs] at hd
  · obtain ⟨-, rfl⟩ | ⟨-, -, rfl⟩ | ⟨-, -, code, -, rfl⟩ := issue_next hi <;> simp at hd
  · cases hp with
    | complete => rfl
    | count | endLow | nextBit | startGap | nextCopy => simp [hs] at hd
  · simp at hd

end Sys2Proof.Machine
end

section
/-! PROOFS. The invariant holds at reset and every step keeps it (10_state.md R52 to R54). -/

namespace Sys2Proof.Machine

variable {s t : State} {c : Config}

/-! ### What acceptance samples fits the registers -/

theorem sampleAddr_representable (h : 1 ≤ c.addrW) (a : Int) : addrRepresentable c (sampleAddr c a) = true := by
  have hpow : (2 : Int) ^ c.addrW = 2 * 2 ^ (c.addrW - 1) := by
    rw [← pow_succ', Nat.sub_add_cancel h]
  have hpos : 0 < 2 ^ c.addrW := Nat.two_pow_pos _
  have hlow := Int.le_bmod (x := a) hpos
  have hhigh := Int.bmod_lt (x := a) hpos
  push_cast [hpow] at hlow hhigh
  rw [addrRepresentable, sampleAddr, decide_eq_true_iff]
  omega

theorem sampleCmd_lt (c : Config) (n : Nat) : sampleCmd c n < 2 ^ c.cmdW := Nat.mod_lt _ (Nat.two_pow_pos _)

theorem zero_representable (c : Config) : addrRepresentable c 0 = true := by
  simp [addrRepresentable]

/-! ### The packet a validation commits -/

/-- The fields of an assembled packet are what it was assembled from (30_encoding.md R83). -/
theorem buildPacket_fields (a : Nibble) (code : Code) :
    (buildPacket a code).extractLsb' 11 2 = 0b10#2 ∧ (buildPacket a code).extractLsb' 7 4 = a ∧
    (buildPacket a code).getLsbD 6 = true ∧ (buildPacket a code).extractLsb' 0 6 = code := by
  unfold buildPacket
  refine ⟨?preamble, ?address, ?separator, BitVec.extractLsb'_append_eq_right⟩
  case preamble =>
    rw [BitVec.extractLsb'_append_eq_of_le (by omega), BitVec.extractLsb'_append_eq_of_le (by omega)]
    exact BitVec.extractLsb'_append_eq_left
  case address =>
    rw [BitVec.extractLsb'_append_eq_of_le (by omega), BitVec.extractLsb'_append_eq_of_le (by omega)]
    exact BitVec.extractLsb'_append_eq_right
  case separator => simp only [BitVec.getLsbD_append]; rfl

/-- A validated request commits a packet made of it (10_state.md R54). -/
theorem State.startTransmission_validated {code : Code} (hc : romRead s.cmdQ = some code)
    (ha : 0 ≤ s.addrQ ∧ s.addrQ ≤ 15) : (s.startTransmission (buildPacket (addrEnc s.addrQ) code)).ValidatedPacket := by
  obtain ⟨hpre, haddr, hsep, hcode⟩ := buildPacket_fields (addrEnc s.addrQ) code
  exact ⟨hpre, hsep, haddr, ha, le_of_romRead_eq_some hc, hc ▸ congrArg some hcode⟩

/-! ### The two kinds of state -/

/-- Outside TRANSMITTING the line is low (10_state.md R52). -/
theorem State.Inv.line_eq_false (h : s.Inv) (hs : s.seqState ≠ .transmitting) : s.line = false := by
  rw [Bool.eq_false_iff]
  exact fun hl => hs (h.lineHigh.1 hl).1

/-- What the invariant asks of a state outside TRANSMITTING. -/
theorem State.Inv.of_not_transmitting (hb : s.build.Valid) (hw : s.FitsWidths) (hs : s.seqState ≠ .transmitting)
    (hl : s.line = false) (hd : s.seqState = .done → s.respCode = .ok) (hr : s.seqState = .rejected → s.respCode ≠ .ok) :
    s.Inv where
  build := hb
  widths := hw
  lineHigh := by simp [hl, hs]
  position h := absurd h hs
  packet h := absurd h hs
  doneOk := hd
  rejectedError := hr

/-- A position within the transmission keeps `rep_cnt` and `timer` within their widths, so in TRANSMITTING the invariant
asks for the latched request's widths, the line's level, the position and the packet. -/
theorem State.Inv.of_transmitting (hb : s.build.Valid) (ha : addrRepresentable s.build s.addrQ = true)
    (hc : s.cmdQ < 2 ^ s.build.cmdW) (hs : s.seqState = .transmitting) (hl : s.line = true ↔ s.txPhase = .high)
    (hpos : s.InTransmission) (hpkt : s.ValidatedPacket) : s.Inv where
  build := hb
  widths :=
    { addrQ := ha
      cmdQ := hc
      timer := Nat.lt_of_lt_of_le hpos.cycle (phaseCycles_bounds hb _ _).2
      repCnt := by
        obtain ⟨-, -, -, -, hreps, -⟩ := hb
        exact Nat.lt_of_lt_of_le hpos.copy hreps }
  lineHigh := by simp [hl, hs]
  position _ := hpos
  packet _ := hpkt
  doneOk h := by simp [hs] at h
  rejectedError h := by simp [hs] at h

/-- The first cycle of a phase is a position of its own (10_state.md R53): every phase has one. -/
theorem State.InTransmission.of_phaseStart (hb : s.build.Valid) (ht : s.timer = 0) (hc : s.repCnt < s.build.reps)
    (hg : s.txPhase = .gap → s.bitIdx = 12) : s.InTransmission where
  copy := hc
  gapBit := hg
  cycle := by
    rw [ht]
    exact (phaseCycles_bounds hb _ _).1

/-! ### Each operation keeps the invariant -/

/-- The invariant says nothing of the ports. -/
theorem State.Inv.nextCycle (h : s.Inv) : s.nextCycle.Inv where
  build := h.build
  widths := ⟨h.widths.addrQ, h.widths.cmdQ, h.widths.timer, h.widths.repCnt⟩
  lineHigh := h.lineHigh
  position hs :=
    have hpos := h.position hs
    ⟨hpos.copy, hpos.gapBit, hpos.cycle⟩
  packet hs :=
    have hpkt := h.packet hs
    ⟨hpkt.preamble, hpkt.separator, hpkt.address, hpkt.addressRange, hpkt.selector, hpkt.command⟩
  doneOk := h.doneOk
  rejectedError := h.rejectedError

/-- Reset meets the invariant from any state of a valid build (10_state.md R55). -/
theorem State.Inv.applyReset (hb : s.build.Valid) : s.applyReset.Inv :=
  .of_not_transmitting hb
    ⟨zero_representable _, Nat.two_pow_pos _, Nat.two_pow_pos _, Nat.two_pow_pos _⟩
    (by simp) rfl (by simp) (by simp)

theorem State.Inv.latchRequest (h : s.Inv) (hs : s.seqState = .idle) (p : PortIn) : (s.latchRequest p).Inv := by
  obtain ⟨-, haddrW, -⟩ := h.build
  have hpos : 1 ≤ s.build.addrW := by omega
  exact .of_not_transmitting h.build
    ⟨sampleAddr_representable hpos _, sampleCmd_lt _ _, h.widths.timer, h.widths.repCnt⟩
    (by simp) (h.line_eq_false (by simp [hs])) (by simp) (by simp)

theorem State.Inv.acceptRequest (h : s.Inv) (hs : s.seqState = .idle) (p : PortIn) : (s.acceptRequest p).Inv := by
  obtain ⟨-, he⟩ | ⟨-, he⟩ := s.acceptRequest_cases p
  · rw [he]
    exact h.latchRequest hs p
  · rwa [he]

theorem State.Inv.raise (h : s.Inv) (hs : s.seqState ≠ .transmitting) (e : ErrorKind) : (s.raise e).Inv :=
  .of_not_transmitting h.build ⟨h.widths.addrQ, h.widths.cmdQ, h.widths.timer, h.widths.repCnt⟩
    (by simp) (h.line_eq_false hs) (by simp) (fun _ => by cases e <;> simp [ErrorKind.respCode])

theorem State.Inv.returnToIdle (h : s.Inv) (hs : s.seqState ≠ .transmitting) : s.returnToIdle.Inv :=
  .of_not_transmitting h.build ⟨h.widths.addrQ, h.widths.cmdQ, h.widths.timer, h.widths.repCnt⟩
    (by simp) (h.line_eq_false hs) (by simp) (by simp)

theorem State.Inv.startTransmission {p : Packet} (h : s.Inv) (hs : s.seqState ≠ .transmitting)
    (hp : (s.startTransmission p).ValidatedPacket) : (s.startTransmission p).Inv := by
  obtain ⟨⟨hreps, -⟩, -⟩ := h.build
  exact .of_transmitting h.build h.widths.addrQ h.widths.cmdQ rfl (by simp [h.line_eq_false hs])
    (.of_phaseStart h.build rfl hreps (by simp)) hp

/-- The packet stays validated while it and the latched request stay (10_state.md R39, R44). -/
theorem State.ValidatedPacket.of_eq (h : s.ValidatedPacket) (hp : t.pkt = s.pkt) (ha : t.addrQ = s.addrQ)
    (hc : t.cmdQ = s.cmdQ) : t.ValidatedPacket := by
  constructor <;> simp only [hp, ha, hc]
  exacts [h.preamble, h.separator, h.address, h.addressRange, h.selector, h.command]

/-- A cycle of TRANSMITTING stays within the transmission or completes it (10_state.md R53). -/
theorem State.Inv.phaseStep (h : s.Inv) (hs : s.seqState = .transmitting) (hstep : PhaseStep s.currentBit s t) : t.Inv := by
  have hpos := h.position hs
  obtain ⟨hb, -, hpkt, ha, hc⟩ := hstep.frame
  have stays (hq : t.seqState = .transmitting) (hl : t.line = true ↔ t.txPhase = .high) (hin : t.InTransmission) : t.Inv :=
    .of_transmitting (hb ▸ h.build) (by rw [hb, ha]; exact h.widths.addrQ) (by rw [hb, hc]; exact h.widths.cmdQ)
      hq hl hin ((h.packet hs).of_eq hpkt ha hc)
  have start (ht : t.timer = 0) (hcopy : t.repCnt < s.build.reps) (hg : t.txPhase = .gap → t.bitIdx = 12) :
      t.InTransmission := .of_phaseStart (hb ▸ h.build) ht (hb ▸ hcopy) hg
  have hline : s.line = true ↔ s.txPhase = .high := by simpa [hs] using h.lineHigh
  cases hstep with
  | count ht =>
    have hlt : s.timer + 1 < phaseCycles s.build s.currentBit s.txPhase := by have := hpos.cycle; omega
    have hn := timerNext_of_lt hlt (phaseCycles_bounds h.build _ _).2
    refine stays hs hline ⟨hpos.copy, hpos.gapBit, ?_⟩
    rw [State.countCycle_timer, hn]
    exact hlt
  | endLow => exact stays hs (by simp) (start rfl hpos.copy (by simp))
  | nextBit => exact stays hs (by simp) (start rfl hpos.copy (by simp))
  | startGap _ _ hbit => exact stays hs (by simp) (start rfl hpos.copy fun _ => hbit)
  | nextCopy hp _ hcopy =>
    have hnext : s.repCnt + 1 < s.build.reps := by have := hpos.copy; omega
    exact stays hs (by simp [hline, hp]) (start rfl hnext (by simp))
  | complete hp =>
    exact .of_not_transmitting h.build ⟨h.widths.addrQ, h.widths.cmdQ, Nat.two_pow_pos _, h.widths.repCnt⟩
      (by simp) (by simp [← Bool.not_eq_true, hline, hp]) (by simp) (by simp)

/-- VALIDATING: an error leaves the transmission's registers alone, and only a validated packet is sent. -/
theorem State.Inv.issue (h : s.Inv) (hs : s.seqState = .validating) (hi : issue s.cmdQ s.addrQ s = .next t) : t.Inv := by
  have hq : s.seqState ≠ .transmitting := by simp [hs]
  obtain ⟨-, rfl⟩ | ⟨-, -, rfl⟩ | ⟨-, ha, code, hc, rfl⟩ := issue_next hi
  · exact h.raise hq _
  · exact h.raise hq _
  · exact h.startTransmission hq (State.startTransmission_validated hc ha)

/-- Every step keeps the invariant, by the operation the step performs. -/
theorem State.Inv.step (h : s.Inv) (hstep : step s = .next t) : t.Inv := by
  obtain ⟨-, rfl⟩ | ⟨-, ⟨hs, rfl⟩ | ⟨hs, hi⟩ | ⟨hs, -, hp⟩ | ⟨hs, rfl⟩⟩ := step_next_cases hstep
  · exact .applyReset h.build
  · exact h.nextCycle.acceptRequest hs _
  · exact h.nextCycle.issue hs hi
  · exact h.nextCycle.phaseStep hs hp
  · exact h.nextCycle.returnToIdle (by obtain hs | hs := hs <;> simp [hs])

end Sys2Proof.Machine

namespace Sys2Proof.Claims
open Sys2Proof.Machine

/-- Settles O37: the reset state is a reset of the default build, which is valid. -/
theorem invariantAtReset : Obligations.InvariantAtReset :=
  State.Inv.applyReset (s := State.reset) (by decide)

/-- Settles O38, operation by operation. -/
theorem stepKeepsInvariant : Obligations.StepKeepsInvariant :=
  fun _ _ h hstep => h.step hstep

end Sys2Proof.Claims
end

section
/-! PROOFS. The two directions of the ports: the request word's fields, the response word's, and the registers' encodings. -/

namespace Sys2Proof.Machine

variable (c : Config) (p : PortIn)

/-! ### The request word, field by field (30_encoding.md R81) -/

theorem PortIn.requestWord_addr : (p.requestWord c).extractLsb' 0 c.addrW = BitVec.ofInt c.addrW p.reqAddr :=
  BitVec.extractLsb'_append_eq_right

theorem PortIn.requestWord_cmd : (p.requestWord c).extractLsb' c.addrW c.cmdW = BitVec.ofNat c.cmdW p.reqCmd := by
  rw [PortIn.requestWord, BitVec.extractLsb'_append_eq_of_le (Nat.le_refl _), Nat.sub_self]
  exact BitVec.extractLsb'_append_eq_right

theorem PortIn.requestWord_valid : (p.requestWord c).getLsbD (c.cmdW + c.addrW) = p.reqValid := by
  simp only [PortIn.requestWord, BitVec.getLsbD_append, Nat.add_sub_cancel, Nat.sub_self, BitVec.getLsbD_ofBool]
  simp

/-! ### The response word, field by field (10_state.md R48) -/

theorem State.responseWord_fields (s : State) :
    s.responseWord.getLsbD 4 = s.busy ∧ s.responseWord.getLsbD 3 = s.reqReady ∧ s.responseWord.getLsbD 2 = s.respValid ∧
    s.responseWord.extractLsb' 0 2 = s.respCode.code := by
  refine ⟨?busy, ?ready, ?valid, BitVec.extractLsb'_append_eq_right⟩
  case busy | ready | valid => simp only [State.responseWord, BitVec.getLsbD_append, BitVec.getLsbD_ofBool]; simp

end Sys2Proof.Machine

namespace Sys2Proof.Claims
open Sys2Proof.Machine

/-- Settles O6, field by field: two's complement of the low bits is `Int.bmod`, the selector's bits are a remainder. -/
theorem samplingReadsRequestWord : Obligations.SamplingReadsRequestWord := by
  intro c p
  refine ⟨?addr, ?cmd, p.requestWord_valid c⟩
  case addr => rw [p.requestWord_addr c, BitVec.toInt_ofInt, sampleAddr]
  case cmd => rw [p.requestWord_cmd c, BitVec.toNat_ofNat, sampleCmd]

/-- Settles O7: the encodings are the definitions' own numbers; the response word is read field by field. -/
theorem registerEncodings : Obligations.RegisterEncodings :=
  ⟨⟨rfl, rfl, rfl, rfl, rfl⟩, ⟨rfl, rfl, rfl⟩, ⟨rfl, rfl, rfl⟩, State.responseWord_fields⟩

end Sys2Proof.Claims
end

section
/-! PROOFS. What commands, symbols and steps write and what they leave alone (10_state.md R36), the transition table
(44_protocol_sequencer.md R164), the line's edges and the timer. -/

namespace Sys2Proof.Claims
open Sys2Proof.Machine

variable {s t : State}

/-! ### The instructions -/

/-- Each of the five commands is the validation of its selector and address, and its selector is known. -/
theorem exec_fiveCommands {a : Int} {p : Nat × Instr × Nat} (hp : p ∈ fiveCommands a) (s : State) :
    exec p.2.1 s = issue p.1 a s ∧ p.1 ≤ 4 := by
  simp only [fiveCommands, List.mem_cons, List.not_mem_nil, or_false] at hp
  obtain rfl | rfl | rfl | rfl | rfl := hp <;> exact ⟨rfl, by omega⟩

/-- Each of the two symbols is the cycle of its bit. -/
theorem exec_twoSymbols {p : Instr × Bool} (hp : p ∈ twoSymbols) (s : State) : exec p.1 s = symbolCycle p.2 s := by
  simp only [twoSymbols, List.mem_cons, List.not_mem_nil, or_false] at hp
  obtain rfl | rfl := hp <;> rfl

/-- Settles O17: a command rejects its address or starts its transmission, and each of the two writes its own registers only. -/
theorem commandFrame : Obligations.CommandFrame := by
  intro s t a p hp h
  obtain ⟨hexec, hsel⟩ := exec_fiveCommands hp s
  rw [hexec] at h
  obtain ⟨hgt, -⟩ | ⟨-, ha, rfl⟩ | ⟨-, ha, code, -, rfl⟩ := issue_next h
  · omega
  · exact ⟨rfl, rfl, rfl, rfl, rfl, fun hlegal => absurd hlegal ha, fun _ => ⟨rfl, rfl, rfl, rfl, rfl⟩⟩
  · exact ⟨rfl, rfl, rfl, rfl, rfl, fun _ => rfl, fun hillegal => absurd ha hillegal⟩

/-- Settles O21, over what a cycle of a symbol's two phases can do: the gap's ends are none of it. -/
theorem symbolFrame : Obligations.SymbolFrame := by
  intro s t p hp h
  rw [exec_twoSymbols hp] at h
  obtain ⟨-, hgap, hstep⟩ := symbolCycle_phaseStep h
  cases hstep with
  | count => exact ⟨rfl, rfl, rfl, rfl, rfl, rfl, rfl, rfl, fun _ => rfl, fun _ => ⟨rfl, rfl⟩⟩
  | endLow hlow => exact ⟨rfl, rfl, rfl, rfl, rfl, rfl, rfl, rfl, fun _ => rfl, by simp [hlow]⟩
  | nextBit hhigh => exact ⟨rfl, rfl, rfl, rfl, rfl, rfl, rfl, rfl, by simp [hhigh], by simp [hhigh]⟩
  | startGap hhigh => exact ⟨rfl, rfl, rfl, rfl, rfl, rfl, rfl, rfl, by simp [hhigh], by simp [hhigh]⟩
  | nextCopy hp | complete hp => exact absurd hp hgap

/-! ### IDLE and reset -/

/-- Settles O26: acceptance in the current cycle's ports. -/
theorem idleAcceptsRequest : Obligations.IdleAcceptsRequest := by
  intro s p rest hin hr hs
  have hports : s.ports = p := by simp [State.ports, hin]
  have htail : s.inputs.tail = rest := by simp [hin]
  have hstep := step_idle (hports ▸ hr) hs
  rw [hports] at hstep
  refine ⟨fun hv => ?_, fun hv => ?_⟩
  · rw [hstep, State.acceptRequest, if_pos hv, ← htail]
    rfl
  · rw [hstep, State.acceptRequest, if_neg (by simp [hv]), ← htail]
    rfl

/-- Settles O30: reset comes first in a cycle. -/
theorem resetFromAnyState : Obligations.ResetFromAnyState :=
  fun _ hr => step_reset hr

/-- Settles O31, register by register. -/
theorem resetStateAndOutputs : Obligations.ResetStateAndOutputs :=
  ⟨rfl, rfl, rfl, rfl, rfl, rfl, rfl, rfl, rfl, rfl, rfl, rfl, by decide⟩

/-! ### The step -/

/-- Settles O34, over everything a step can do. -/
theorem registersWrittenOnlyInTheirStates : Obligations.RegistersWrittenOnlyInTheirStates := by
  intro s t h
  obtain ⟨hr, rfl⟩ | ⟨-, ⟨hs, rfl⟩ | ⟨hs, hi⟩ | ⟨hs, -, hp⟩ | ⟨-, rfl⟩⟩ := step_next_cases h
  · exact ⟨rfl, rfl, by simp [hr]⟩
  · obtain ⟨-, he⟩ | ⟨-, he⟩ := s.nextCycle.acceptRequest_cases s.ports <;> rw [he] <;>
      exact ⟨rfl, rfl, fun _ => ⟨(absurd hs ·), fun _ => rfl, fun _ => rfl, fun _ _ => ⟨rfl, rfl, rfl, rfl, rfl⟩⟩⟩
  · obtain ⟨-, rfl⟩ | ⟨-, -, rfl⟩ | ⟨-, -, code, -, rfl⟩ := issue_next hi <;>
      exact ⟨rfl, rfl, fun _ => ⟨fun _ => ⟨rfl, rfl⟩, (absurd hs ·), fun _ => rfl, (absurd hs ·)⟩⟩
  · obtain ⟨hbuild, hin, hpkt, haddr, hcmd⟩ := hp.frame
    exact ⟨hbuild, hin, fun _ => ⟨fun _ => ⟨haddr, hcmd⟩, fun _ => hpkt, (absurd hs ·), fun _ => (absurd hs ·)⟩⟩
  · exact ⟨rfl, rfl, fun _ => ⟨fun _ => ⟨rfl, rfl⟩, fun _ => rfl, fun _ => rfl, fun _ _ => ⟨rfl, rfl, rfl, rfl, rfl⟩⟩⟩

/-- Settles O35: outside a transmission and a reset no operation writes the line. -/
theorem lineChangesOnlyAtPhaseEnds : Obligations.LineChangesOnlyAtPhaseEnds := by
  intro s t h hl
  cases hr : s.ports.rst with
  | true =>
    rw [step_reset hr] at h
    cases h
    exact .inl ⟨rfl, rfl⟩
  | false =>
    obtain ⟨-, -, hframe⟩ := registersWrittenOnlyInTheirStates s t h
    obtain ⟨-, -, hline, -⟩ := hframe hr
    have hs : s.seqState = .transmitting := by_contra fun hs => hl (hline hs)
    obtain ⟨-, hstep⟩ := step_transmitting_next hr hs h
    obtain ⟨hp, ht, hhigh⟩ | ⟨hp, ht, hlow⟩ := hstep.line_edge hl
    · exact .inr (.inl ⟨rfl, hs, hp, ht, hhigh⟩)
    · exact .inr (.inr ⟨rfl, hs, hp, ht, hlow⟩)

/-- Settles O36: `timer` stays below its phase's length, so counting does not wrap. -/
theorem timerCountsWithoutWrapping : Obligations.TimerCountsWithoutWrapping := by
  intro s t hinv hr hs h
  obtain ⟨-, hstep⟩ := step_transmitting_next hr hs h
  have htimer : t.timer = if s.timer + 1 = phaseCycles s.build s.currentBit s.txPhase then 0
      else timerNext s.build s.timer := hstep.timer_eq
  have hbound := phaseCycles_le_max hinv.build s.currentBit s.txPhase
  have hcycle := (hinv.position hs).cycle
  by_cases hlast : s.timer + 1 = phaseCycles s.build s.currentBit s.txPhase
  · rw [if_pos hlast] at htimer ⊢
    exact ⟨htimer, by omega⟩
  · have hlt : s.timer + 1 < phaseCycles s.build s.currentBit s.txPhase := by omega
    have hn := timerNext_of_lt hlt (phaseCycles_bounds hinv.build s.currentBit s.txPhase).2
    rw [if_neg hlast] at htimer ⊢
    exact ⟨htimer.trans hn, by omega⟩

/-! ### The transition table -/

/-- The "to" column of the table (44_protocol_sequencer.md R164). -/
theorem step_seqState (h : step s = .next t) : t.seqState = nextSeqState s := by
  obtain ⟨hr, rfl⟩ | ⟨hr, ⟨hs, rfl⟩ | ⟨hs, hi⟩ | ⟨hs, -, hp⟩ | ⟨hs, rfl⟩⟩ := step_next_cases h
  · simp [nextSeqState, hr]
  · obtain ⟨hv, he⟩ | ⟨hv, he⟩ := s.nextCycle.acceptRequest_cases s.ports <;> simp [nextSeqState, hr, hs, hv, he]
  · obtain ⟨hsel, rfl⟩ | ⟨hsel, ha, rfl⟩ | ⟨hsel, ha, code, -, rfl⟩ := issue_next hi
    · simp [nextSeqState, hr, hs, hsel]
    · simpa [nextSeqState, hr, hs, hsel] using ha
    · simp [nextSeqState, hr, hs, hsel, ha]
  · simpa [nextSeqState, hr, hs] using hp.seqState_eq
  · obtain hs | hs := hs <;> simp [nextSeqState, hr, hs]

/-- Settles O32: the table's columns one by one, `line_out` from the invariant of the state reached. -/
theorem stateMachineFollowsTable : Obligations.StateMachineFollowsTable := by
  intro s t h
  refine ⟨step_seqState h, fun hr hs => step_validating_respCode hr hs h, State.reqReady_iff, State.busy_iff,
    State.respValid_iff, fun hd => ?done, fun hr => ?reset, fun hinv => (hinv.step h).lineHigh⟩
  case done =>
    rw [State.response_of_respValid (State.respValid_iff.2 (.inr hd)), step_respCode_of_done h hd]
  case reset =>
    rw [step_reset hr] at h
    cases h
    rfl

end Sys2Proof.Claims
end

section
/-! PROOFS. Noninterference (10_state.md R57): the registers that a state of the sequencer does not read leave no mark on
what a requester sees. -/

namespace Sys2Proof.Machine

variable {s t : State} {b : Bool}

/-- Two states that agree on the registers live in their sequencer state: the latched request in VALIDATING, the packet
and the position in TRANSMITTING, the result in REJECTED and DONE, and always the line, the ports and the build. -/
structure AgreeOnLive (s t : State) : Prop where
  build : s.build = t.build
  seqState : s.seqState = t.seqState
  line : s.line = t.line
  inputs : s.inputs = t.inputs
  request : s.seqState = .validating → s.addrQ = t.addrQ ∧ s.cmdQ = t.cmdQ
  position : s.seqState = .transmitting →
    s.pkt = t.pkt ∧ s.bitIdx = t.bitIdx ∧ s.repCnt = t.repCnt ∧ s.timer = t.timer ∧ s.txPhase = t.txPhase
  result : s.seqState = .rejected ∨ s.seqState = .done → s.respCode = t.respCode

theorem AgreeOnLive.ports (h : AgreeOnLive s t) : s.ports = t.ports := by
  rw [State.ports, State.ports, h.inputs]

/-- IDLE reads no register but the line. -/
theorem AgreeOnLive.of_idle (hb : s.build = t.build) (hs : s.seqState = .idle) (ht : t.seqState = .idle)
    (hl : s.line = t.line) (hi : s.inputs = t.inputs) : AgreeOnLive s t where
  build := hb
  seqState := hs.trans ht.symm
  line := hl
  inputs := hi
  request h := by simp [hs] at h
  position h := by simp [hs] at h
  result h := by simp [hs] at h

/-- In TRANSMITTING the latched request and the last result are not live. -/
theorem AgreeOnLive.of_transmitting (hs : s.seqState = .transmitting)
    (ht : t = { s with addrQ := t.addrQ, cmdQ := t.cmdQ, respCode := t.respCode }) : AgreeOnLive s t := by
  rw [ht]
  exact ⟨rfl, rfl, rfl, rfl, by simp [hs], fun _ => ⟨rfl, rfl, rfl, rfl, rfl⟩, by simp [hs]⟩

/-- In REJECTED and DONE only the result is. -/
theorem AgreeOnLive.of_result (hs : s.seqState = .rejected ∨ s.seqState = .done) (hb : s.build = t.build)
    (hq : s.seqState = t.seqState) (hl : s.line = t.line) (hi : s.inputs = t.inputs) (hr : s.respCode = t.respCode) :
    AgreeOnLive s t where
  build := hb
  seqState := hq
  line := hl
  inputs := hi
  request h := by simp [h] at hs
  position h := by simp [h] at hs
  result _ := hr

/-- States in TRANSMITTING that agree differ in the latched request and the last result only. -/
theorem AgreeOnLive.eq_of_transmitting (h : AgreeOnLive s t) (hs : s.seqState = .transmitting) :
    t = { s with addrQ := t.addrQ, cmdQ := t.cmdQ, respCode := t.respCode } := by
  obtain ⟨hp, hbit, hrep, htimer, hphase⟩ := h.position hs
  rw [h.build, h.seqState, h.line, h.inputs, hp, hbit, hrep, htimer, hphase]

/-! ### Each operation keeps the agreement -/

theorem AgreeOnLive.nextCycle (h : AgreeOnLive s t) : AgreeOnLive s.nextCycle t.nextCycle where
  build := h.build
  seqState := h.seqState
  line := h.line
  inputs := congrArg List.tail h.inputs
  request := h.request
  position := h.position
  result := h.result

theorem AgreeOnLive.acceptRequest (h : AgreeOnLive s t) (p : PortIn) :
    AgreeOnLive (s.acceptRequest p) (t.acceptRequest p) := by
  obtain ⟨hv, he⟩ | ⟨hv, he⟩ := s.acceptRequest_cases p
  · have he' : t.acceptRequest p = t.latchRequest p := if_pos hv
    rw [he, he']
    exact ⟨h.build, rfl, h.line, h.inputs, fun _ => by simp [h.build], by simp, by simp⟩
  · have he' : t.acceptRequest p = t := if_neg (by simp [hv])
    rwa [he, he']

theorem AgreeOnLive.raise (h : AgreeOnLive s t) (e : ErrorKind) : AgreeOnLive (s.raise e) (t.raise e) :=
  .of_result (.inl rfl) h.build rfl h.line h.inputs rfl

theorem AgreeOnLive.startTransmission (h : AgreeOnLive s t) (p : Packet) :
    AgreeOnLive (s.startTransmission p) (t.startTransmission p) :=
  ⟨h.build, rfl, h.line, h.inputs, by simp, fun _ => ⟨rfl, rfl, rfl, rfl, rfl⟩, by simp⟩

/-- One request validates alike in both states. -/
theorem AgreeOnLive.issue (h : AgreeOnLive s t) (sel : Nat) (a : Int) :
    ∃ s' t', issue sel a s = .next s' ∧ issue sel a t = .next t' ∧ AgreeOnLive s' t' := by
  cases hc : romRead sel with
  | none => exact ⟨_, _, by rw [Machine.issue, hc], by rw [Machine.issue, hc], h.raise _⟩
  | some code =>
    by_cases ha : 0 ≤ a ∧ a ≤ 15
    · exact ⟨_, _, issue_valid s hc ha, issue_valid t hc ha, h.startTransmission _⟩
    · exact ⟨_, _, issue_badAddress s hc ha, issue_badAddress t hc ha, h.raise _⟩

/-- A cycle of TRANSMITTING does not read the latched request or the last result. -/
theorem AgreeOnLive.phaseStep (h : AgreeOnLive s t) (hs : s.seqState = .transmitting) {s' : State} (hstep : PhaseStep b s s') :
    ∃ t', PhaseStep b t t' ∧ AgreeOnLive s' t' := by
  rw [h.eq_of_transmitting hs]
  cases hstep with
  | count ht => exact ⟨_, .count ht, .of_transmitting hs rfl⟩
  | endLow hp ht => exact ⟨_, .endLow hp ht, .of_transmitting hs rfl⟩
  | nextBit hp ht hb => exact ⟨_, .nextBit hp ht hb, .of_transmitting hs rfl⟩
  | startGap hp ht hb => exact ⟨_, .startGap hp ht hb, .of_transmitting hs rfl⟩
  | nextCopy hp ht hc => exact ⟨_, .nextCopy hp ht hc, .of_transmitting hs rfl⟩
  | complete hp ht hc => exact ⟨_, .complete hp ht hc, .of_result (.inr rfl) rfl rfl rfl rfl rfl⟩

/-- States that agree stop alike or go on to states that agree. -/
theorem AgreeOnLive.step (h : AgreeOnLive s t) :
    (∃ s' t', step s = .next s' ∧ step t = .next t' ∧ AgreeOnLive s' t') ∨ (∃ r, step s = .fault r ∧ step t = .fault r) := by
  cases hr : s.ports.rst with
  | true =>
    have hr' : t.ports.rst = true := h.ports ▸ hr
    exact .inl ⟨_, _, step_reset hr, step_reset hr', .of_idle h.build rfl rfl rfl h.nextCycle.inputs⟩
  | false =>
    have hr' : t.ports.rst = false := h.ports ▸ hr
    cases hs : s.seqState with
    | idle =>
      have ht := h.seqState ▸ hs
      exact .inl ⟨_, _, step_idle hr hs, step_idle hr' ht, h.ports ▸ h.nextCycle.acceptRequest _⟩
    | validating =>
      have ht := h.seqState ▸ hs
      obtain ⟨haddr, hcmd⟩ := h.request hs
      rw [step_validating hr hs, step_validating hr' ht, ← haddr, ← hcmd]
      exact .inl (h.nextCycle.issue _ _)
    | transmitting =>
      have ht := h.seqState ▸ hs
      obtain ⟨hpkt, hbit, hrep, -, -⟩ := h.position hs
      by_cases hc : s.repCnt < s.build.reps
      · have hc' : t.repCnt < t.build.reps := by rwa [← hrep, ← h.build]
        have hcur : t.currentBit = s.currentBit := by rw [State.currentBit, State.currentBit, hpkt, hbit]
        obtain ⟨s', hs', hp⟩ := step_transmitting hr hs hc
        obtain ⟨t', hp', hagree⟩ := h.nextCycle.phaseStep hs hp
        exact .inl ⟨s', t', hs', step_of_phaseStep hr' ht hc' (hcur ▸ hp'), hagree⟩
      · have hc' : ¬t.repCnt < t.build.reps := by rwa [← hrep, ← h.build]
        exact .inr ⟨_, step_stuck hr hs (by omega), step_stuck hr' ht (by omega)⟩
    | rejected =>
      have ht := h.seqState ▸ hs
      exact .inl ⟨_, _, step_finish hr (.inl hs), step_finish hr' (.inl ht), .of_idle h.build rfl rfl h.line h.nextCycle.inputs⟩
    | done =>
      have ht := h.seqState ▸ hs
      exact .inl ⟨_, _, step_finish hr (.inr hs), step_finish hr' (.inr ht), .of_idle h.build rfl rfl h.line h.nextCycle.inputs⟩

/-- A function that states which agree do not tell apart shows the same in every cycle of their runs. -/
theorem AgreeOnLive.traceOf_eq {α : Type} {f : State → α} (hf : ∀ s t, AgreeOnLive s t → f s = f t) (n : Nat)
    (h : AgreeOnLive s t) : traceOf f n s = traceOf f n t := by
  induction n generalizing s t with
  | zero => rfl
  | succ n ih =>
    obtain ⟨s', t', hs, ht, h'⟩ | ⟨r, hs, ht⟩ := h.step
    · rw [traceOf_succ f hs, traceOf_succ f ht, hf s t h, ih h']
    · simp only [traceOf, hs, ht, hf s t h]

end Sys2Proof.Machine

namespace Sys2Proof.Claims
open Sys2Proof.Machine

/-- A requester sees `seq_state`, the line and, in REJECTED and DONE only, the result (10_state.md R32, R33). -/
theorem visible_eq_of_agreeOnLive (s t : State) (h : AgreeOnLive s t) : visible s = visible t := by
  have hready : s.reqReady = t.reqReady := by rw [State.reqReady, State.reqReady, h.seqState]
  have hbusy : s.busy = t.busy := by rw [State.busy_eq_not_reqReady, State.busy_eq_not_reqReady, hready]
  have hvalid : s.respValid = t.respValid := by rw [State.respValid, State.respValid, h.seqState]
  have hresp : s.response = t.response := by
    cases hv : s.respValid with
    | true =>
      rw [State.response_of_respValid hv, State.response_of_respValid (hvalid ▸ hv), h.result (State.respValid_iff.1 hv)]
    | false => rw [State.response_of_not_respValid hv, State.response_of_not_respValid (hvalid ▸ hv)]
  simp only [visible, hready, hbusy, hresp, State.lineOut, h.line]

/-- Settles O44: IDLE states agree, a step keeps the agreement, and a requester sees live registers only. -/
theorem leftoversAreNeverVisible : Obligations.LeftoversAreNeverVisible :=
  fun n _ _ hs ht hb hl hi => (AgreeOnLive.of_idle hb hs ht hl hi).traceOf_eq visible_eq_of_agreeOnLive n

end Sys2Proof.Claims
end

section
/-! PROOFS. The constants of the design: the Command Table, closed at both ends (20_memory.md R61, R62), and the packet
assembled from them, bit by bit in wire order (30_encoding.md R83). -/

namespace Sys2Proof.Machine

/-! ### The Command Table -/

/-- A name that is none of the five has selector 7 (30_encoding.md R82). -/
theorem selOfName_of_not_mem {name : String}
    (h : name ∉ ["light", "fan-off", "fan-low", "fan-medium", "fan-high"]) : selOfName name = 7 := by
  simp only [List.mem_cons, List.not_mem_nil, or_false, not_or] at h
  obtain ⟨hlight, hoff, hlow, hmedium, hhigh⟩ := h
  rw [selOfName, if_neg hlight, if_neg hoff, if_neg hlow, if_neg hmedium, if_neg hhigh]

/-- `CmdValid` holds exactly where the table has an entry (40_command_table.md R101). -/
theorem cmdValid_eq_isSome_romRead (sel : Nat) : cmdValid sel = (romRead sel).isSome := by
  cases hc : romRead sel with
  | none => exact decide_eq_false (Nat.not_le.2 (romRead_eq_none.1 hc))
  | some code => exact decide_eq_true (le_of_romRead_eq_some hc)

/-- A code stands in the table once (40_command_table.md R110). -/
theorem romRead_inj {sel sel' : Nat} {code : Code} (h : romRead sel = some code) (h' : romRead sel' = some code) :
    sel = sel' := by
  have entries : ∀ i j : Fin 5, romRead i = romRead j → i = j := by decide
  have hlt := Nat.lt_succ_of_le (le_of_romRead_eq_some h)
  have hlt' := Nat.lt_succ_of_le (le_of_romRead_eq_some h')
  exact congrArg Fin.val (entries ⟨sel, hlt⟩ ⟨sel', hlt'⟩ (h.trans h'.symm))

/-! ### The packet in wire order -/

/-- A bit of a word's field is the word's bit at the field's place. -/
theorem getLsbD_of_extractLsb'_eq {w n : Nat} {x : BitVec w} {start : Nat} {field : BitVec n}
    (h : x.extractLsb' start n = field) {i : Nat} (hi : i < n) : x.getLsbD (start + i) = field.getLsbD i := by
  rw [← h, BitVec.getLsbD_extractLsb', decide_eq_true hi, Bool.true_and]

/-- The wire carries `1,0`, the address bits, `1` and the code bits, each field from its top bit down (43_packet_framer.md R141). -/
theorem packetBits_buildPacket (n : Nibble) (code : Code) :
    packetBits (buildPacket n code) =
      [true, false, n.getLsbD 3, n.getLsbD 2, n.getLsbD 1, n.getLsbD 0, true, code.getLsbD 5, code.getLsbD 4,
        code.getLsbD 3, code.getLsbD 2, code.getLsbD 1, code.getLsbD 0] := by
  obtain ⟨hpreamble, haddress, hseparator, hcode⟩ := buildPacket_fields n code
  generalize buildPacket n code = p at hpreamble haddress hseparator hcode ⊢
  calc packetBits p
    _ = [p.getLsbD (11 + 1), p.getLsbD (11 + 0),
          p.getLsbD (7 + 3), p.getLsbD (7 + 2), p.getLsbD (7 + 1), p.getLsbD (7 + 0),
          p.getLsbD 6,
          p.getLsbD (0 + 5), p.getLsbD (0 + 4), p.getLsbD (0 + 3), p.getLsbD (0 + 2), p.getLsbD (0 + 1), p.getLsbD (0 + 0)] := rfl
    _ = [(0b10#2).getLsbD 1, (0b10#2).getLsbD 0, n.getLsbD 3, n.getLsbD 2, n.getLsbD 1, n.getLsbD 0, true, code.getLsbD 5,
          code.getLsbD 4, code.getLsbD 3, code.getLsbD 2, code.getLsbD 1, code.getLsbD 0] := by
      simp (disch := decide) only [getLsbD_of_extractLsb'_eq hpreamble, getLsbD_of_extractLsb'_eq haddress, hseparator,
        getLsbD_of_extractLsb'_eq hcode, -Nat.reduceAdd]

/-- Each address bit is sent complemented (41_address_encoder.md R117). -/
theorem getLsbD_addrEnc (a : Int) {i : Nat} (hi : i < 4) : (addrEnc a).getLsbD i = !(BitVec.ofInt 4 a).getLsbD i := by
  rw [addrEnc, BitVec.getLsbD_not, decide_eq_true hi, Bool.true_and]

end Sys2Proof.Machine

namespace Sys2Proof.Claims
open Sys2Proof.Machine

/-- Settles O13: the packet's fields in wire order, the address field complemented; the layout needs no legal address. -/
theorem packetLayout : Obligations.PacketLayout := by
  intro a code _ _
  refine ⟨?layout, fun i => packetBits_get _ i.isLt⟩
  case layout =>
    simp (disch := decide) only [packetBits_buildPacket, getLsbD_addrEnc]

/-- Settles O8: the five names are looked up one by one, every other name has the selector 7, which is past the table's end. -/
theorem commandTableIsClosed : Obligations.CommandTableIsClosed := by
  refine ⟨?names, ?others, fun _ => romRead_eq_none, cmdValid_eq_isSome_romRead, fun _ _ _ => romRead_inj⟩
  case names => decide
  case others =>
    intro name hname
    rw [lookup, selOfName_of_not_mem hname]
    exact romRead_eq_none.2 (by decide)

end Sys2Proof.Claims
end

section
/-! PROOFS. The code map (30_encoding.md R87 to R89): the packet as arithmetic, the mask and match test, and the decoders
and encoders of the wire and of the request port. -/

namespace Sys2Proof.Machine

/-! ### The packet as arithmetic -/

/-- A legal address is sent as its complement to 15 (41_address_encoder.md R120). -/
theorem addrEnc_toNat {a : Int} (ha : 0 ≤ a ∧ a ≤ 15) : ((addrEnc a).toNat : Int) = 15 - a := by
  rw [addrEnc, BitVec.toNat_not, BitVec.toNat_ofInt]
  omega

/-- The encoded address denotes the address it was made of, whatever the nibble (30_encoding.md R89). -/
theorem addrEnc_complement (n : Nibble) : addrEnc (15 - (n.toNat : Int)) = n := by
  have hn := n.isLt
  have h := addrEnc_toNat (a := 15 - (n.toNat : Int)) (by omega)
  exact BitVec.eq_of_toNat_eq (by omega)

/-- The number a word of two fields denotes. -/
theorem toNat_append_eq_add {m n : Nat} (x : BitVec m) (y : BitVec n) : (x ++ y).toNat = x.toNat * 2 ^ n + y.toNat := by
  rw [BitVec.toNat_append, ← Nat.shiftLeft_add_eq_or_of_lt y.isLt, Nat.shiftLeft_eq]

theorem buildPacket_toNat (n : Nibble) (code : Code) :
    (buildPacket n code).toNat = 0x1000 + n.toNat * 128 + 0x40 + code.toNat := by
  simp only [buildPacket, toNat_append_eq_add, BitVec.toNat_ofNat]
  omega

/-! ### Mask and match -/

/-- The "match" column of the code map (30_encoding.md R88). -/
def matchValues : List Packet := [0x107E#13, 0x107D#13, 0x1077#13, 0x106F#13, 0x105F#13]

/-- The mask of R88 keeps the preamble, the separator and the code. -/
theorem codeMask_eq : 0x187F#13 = 0b11#2 ++ 0#4 ++ 0b1#1 ++ BitVec.allOnes 6 := rfl

/-- Masking a packet leaves its row's match value, the packet whose address field is 0. -/
theorem buildPacket_and_codeMask (n : Nibble) (code : Code) : buildPacket n code &&& 0x187F#13 = buildPacket 0 code := by
  rw [codeMask_eq, buildPacket, BitVec.and_append, BitVec.and_append, BitVec.and_append, BitVec.and_allOnes, BitVec.and_zero]
  rfl

/-- A word is its four fields side by side (30_encoding.md R83). -/
theorem packet_eq_fields (w : Packet) :
    w = w.extractLsb' 11 2 ++ w.extractLsb' 7 4 ++ w.extractLsb' 6 1 ++ w.extractLsb' 0 6 := by
  rw [BitVec.extractLsb'_append_extractLsb'_eq_extractLsb' (start₁ := 7) (len₁ := 4) rfl,
    BitVec.extractLsb'_append_extractLsb'_eq_extractLsb' (start₁ := 6) (len₁ := 1) rfl,
    BitVec.extractLsb'_append_extractLsb'_eq_extractLsb' (start₁ := 0) (len₁ := 6) rfl, BitVec.extractLsb'_eq_self]

/-- A word that masks to a row's match value is that row's packet for the address in its bits 10 to 7 (30_encoding.md R89). -/
theorem eq_buildPacket_of_and_codeMask {w : Packet} {code : Code} (h : w &&& 0x187F#13 = buildPacket 0 code) :
    w = buildPacket (w.extractLsb' 7 4) code := by
  have field (start len : Nat) : w.extractLsb' start len &&& (0x187F#13).extractLsb' start len =
      (buildPacket 0 code).extractLsb' start len := by
    rw [← BitVec.extractLsb'_and, h]
  obtain ⟨hpre, -, -, hcode⟩ := buildPacket_fields 0 code
  have preamble : w.extractLsb' 11 2 = 0b10#2 := calc
    _ = w.extractLsb' 11 2 &&& BitVec.allOnes 2 := BitVec.and_allOnes.symm
    _ = 0b10#2 := (field 11 2).trans hpre
  have separator : w.extractLsb' 6 1 = 0b1#1 := calc
    _ = w.extractLsb' 6 1 &&& BitVec.allOnes 1 := BitVec.and_allOnes.symm
    _ = (buildPacket 0 code).extractLsb' 6 1 := field 6 1
    _ = 0b1#1 := by
      rw [buildPacket, BitVec.extractLsb'_append_eq_of_le (by omega)]
      exact BitVec.extractLsb'_append_eq_right
  have command : w.extractLsb' 0 6 = code := calc
    _ = w.extractLsb' 0 6 &&& BitVec.allOnes 6 := BitVec.and_allOnes.symm
    _ = code := (field 0 6).trans hcode
  calc w = w.extractLsb' 11 2 ++ w.extractLsb' 7 4 ++ w.extractLsb' 6 1 ++ w.extractLsb' 0 6 := packet_eq_fields w
    _ = buildPacket (w.extractLsb' 7 4) code := by rw [preamble, separator, command, buildPacket]

/-! ### The request port: `decodeRequest` and `encodeRequest` undo each other (30_encoding.md R81) -/

theorem decodeRequest_of_encodeRequest {i : Instr} {sel : Nat} {a : Int} (h : encodeRequest i = some (sel, a)) :
    decodeRequest sel a = .ok i := by
  cases i with
  | light | fanOff | fanLow | fanMedium | fanHigh => cases h; rfl
  | sendBit1 | sendBit0 => cases h

theorem encodeRequest_of_decodeRequest {i : Instr} {sel : Nat} {a : Int} (h : decodeRequest sel a = .ok i) :
    encodeRequest i = some (sel, a) := by
  match sel, h with
  | 0, h | 1, h | 2, h | 3, h | 4, h => cases h; rfl

/-- What the request port does not name is a symbol (42_bit_transmitter.md R134). -/
theorem eq_decodeSymbol_of_encodeRequest {i : Instr} (h : encodeRequest i = none) : ∃ b, i = decodeSymbol b := by
  cases i with
  | light | fanOff | fanLow | fanMedium | fanHigh => cases h
  | sendBit1 => exact ⟨true, rfl⟩
  | sendBit0 => exact ⟨false, rfl⟩

/-- Every selector of the Command Table names an instruction. -/
theorem decodeRequest_ok_of_romRead {sel : Nat} {code : Code} (hc : romRead sel = some code) (a : Int) :
    ∃ i, decodeRequest sel a = .ok i :=
  decodeRequest_ok_of_le a (le_of_romRead_eq_some hc)

/-! ### The wire decoder -/

/-- A word that masks to a row's match value decodes to the row's command, whatever its address bits (30_encoding.md R89). -/
theorem decodePacket_of_match {sel : Nat} {code : Code} {w : Packet} (hc : romRead sel = some code)
    (hw : w &&& 0x187F#13 = buildPacket 0 code) :
    decodePacket w = decodeRequest sel (15 - ((w.extractLsb' 7 4).toNat : Int)) := by
  match sel, hc with
  | 0, hc | 1, hc | 2, hc | 3, hc | 4, hc => cases hc; rw [decodePacket, hw]; rfl

/-- A word that masks to no row's match value is no packet (30_encoding.md R89). -/
theorem decodePacket_of_not_mem {w : Packet} (h : w &&& 0x187F#13 ∉ matchValues) :
    decodePacket w = .error (.notAPacket w) := by
  simp only [matchValues, List.mem_cons, List.not_mem_nil, or_false, not_or] at h
  obtain ⟨hlight, hoff, hlow, hmedium, hhigh⟩ := h
  rw [decodePacket, if_neg hlight, if_neg hoff, if_neg hlow, if_neg hmedium, if_neg hhigh]

/-- Every match value is the packet of an entry of the Command Table with the address field 0 (30_encoding.md R88). -/
theorem exists_romRead_of_mem {m : Packet} (h : m ∈ matchValues) :
    ∃ sel code, romRead sel = some code ∧ m = buildPacket 0 code := by
  simp only [matchValues, List.mem_cons, List.not_mem_nil, or_false] at h
  obtain rfl | rfl | rfl | rfl | rfl := h
  · exact ⟨0, _, rfl, rfl⟩
  · exact ⟨1, _, rfl, rfl⟩
  · exact ⟨2, _, rfl, rfl⟩
  · exact ⟨3, _, rfl, rfl⟩
  · exact ⟨4, _, rfl, rfl⟩

/-- The packet of an entry of the Command Table decodes to the entry's command, its address field complemented. -/
theorem decodePacket_buildPacket {sel : Nat} {code : Code} (hc : romRead sel = some code) (n : Nibble) :
    decodePacket (buildPacket n code) = decodeRequest sel (15 - (n.toNat : Int)) := by
  obtain ⟨-, haddr, -, -⟩ := buildPacket_fields n code
  rw [decodePacket_of_match hc (buildPacket_and_codeMask n code), haddr]

/-- A packet decodes to the request it was built for (30_encoding.md R89). -/
theorem decodePacket_buildPacket_addrEnc {sel : Nat} {code : Code} {a : Int} (hc : romRead sel = some code)
    (ha : 0 ≤ a ∧ a ≤ 15) : decodePacket (buildPacket (addrEnc a) code) = decodeRequest sel a := by
  rw [decodePacket_buildPacket hc, addrEnc_toNat ha, sub_sub_cancel]

/-- What decodes as a packet was built from a legal address and an entry of the Command Table, and is that request. -/
theorem decodePacket_eq_ok {w : Packet} {i : Instr} (h : decodePacket w = .ok i) :
    ∃ sel code a, romRead sel = some code ∧ (0 ≤ a ∧ a ≤ 15) ∧ decodeRequest sel a = .ok i ∧
      w = buildPacket (addrEnc a) code := by
  by_cases hm : w &&& 0x187F#13 ∈ matchValues
  · obtain ⟨sel, code, hc, hw⟩ := exists_romRead_of_mem hm
    have hn := (w.extractLsb' 7 4).isLt
    refine ⟨sel, code, 15 - ((w.extractLsb' 7 4).toNat : Int), hc, by omega, ?request, ?word⟩
    case request => rw [← decodePacket_of_match hc hw, h]
    case word => rw [addrEnc_complement, ← eq_buildPacket_of_and_codeMask hw]
  · rw [decodePacket_of_not_mem hm] at h
    cases h

/-- What decodes from the wire is one symbol's bit or one packet (30_encoding.md R92). -/
theorem decode_eq_ok {bits : List Bool} {i : Instr} (h : decode bits = .ok i) :
    (∃ b, bits = [b] ∧ i = decodeSymbol b) ∨ (∃ w, bits = packetBits w ∧ decodePacket w = .ok i) := by
  by_cases hl : bits.length = 13
  · refine .inr ⟨_, (packetBits_wordOfBits hl).symm, ?_⟩
    rwa [← decode_packetBits, packetBits_wordOfBits hl]
  · match bits, hl, h with
    | [b], _, h => cases h; exact .inl ⟨b, rfl, rfl⟩
    | [], hl, h | _ :: _ :: _, hl, h => simp only [decode, if_neg hl] at h; cases h

/-! ### The wire encoder -/

/-- The complemented address, shifted to bits 10 to 7, beside a row's match value: the row's packet (30_encoding.md R83). -/
theorem packetWord_buildPacket {a : Int} (ha : 0 ≤ a ∧ a ≤ 15) (code : Code) :
    packetWord (buildPacket 0 code) a = buildPacket (addrEnc a) code := by
  have shifted : ∀ n : Nibble, n.setWidth 13 <<< 7 = 0#2 ++ n ++ 0#1 ++ 0#6 := by decide
  have field : BitVec.ofInt 13 (15 - a) <<< 7 = 0#2 ++ addrEnc a ++ 0#1 ++ 0#6 := by
    rw [← addrEnc_toNat ha, BitVec.ofInt_natCast, BitVec.ofNat_toNat, shifted]
  rw [packetWord, field, buildPacket, BitVec.or_append, BitVec.or_append, BitVec.or_append, buildPacket]
  simp only [BitVec.or_zero, BitVec.ofNat_eq_ofNat, BitVec.zero_or]

/-- A request's encoding on the wire is the packet the core builds for it (30_encoding.md R87, R88). -/
theorem encode_of_decodeRequest {sel : Nat} {code : Code} {a : Int} {i : Instr} (hc : romRead sel = some code)
    (ha : 0 ≤ a ∧ a ≤ 15) (hi : decodeRequest sel a = .ok i) : encode i = packetBits (buildPacket (addrEnc a) code) := by
  rw [← packetWord_buildPacket ha code]
  match sel, hc, hi with
  | 0, hc, hi | 1, hc, hi | 2, hc, hi | 3, hc, hi | 4, hc, hi => cases hc; cases hi; rfl

@[simp] theorem encode_decodeSymbol (b : Bool) : encode (decodeSymbol b) = [b] := by
  cases b <;> rfl

/-- A command is well formed exactly when its address is legal. -/
theorem wellFormed_iff_of_decodeRequest {sel : Nat} {a : Int} {i : Instr} (hi : decodeRequest sel a = .ok i) :
    i.wellFormed = true ↔ 0 ≤ a ∧ a ≤ 15 := by
  match sel, hi with
  | 0, hi | 1, hi | 2, hi | 3, hi | 4, hi => cases hi; exact decide_eq_true_iff

@[simp] theorem wellFormed_decodeSymbol (b : Bool) : (decodeSymbol b).wellFormed = true := by
  cases b <;> rfl

/-! ### The host's numbering -/

/-- A number below 2^13 is read as a packet word (log 10). -/
theorem decodeTableWord_packet (w : Packet) : decodeTableWord 16 w.toNat = (decodePacket w).toOption := by
  rw [decodeTableWord, if_neg (by decide), if_neg (by decide), if_pos (by decide), if_pos w.isLt, decode_packetBits,
    BitVec.ofNat_toNat, BitVec.setWidth_eq]

/-- The number of a command's packet, written as arithmetic (30_encoding.md R87), is read as the command. -/
theorem decodeTableWord_of_request {sel : Nat} {code : Code} {a : Int} {i : Instr} (hc : romRead sel = some code)
    (ha : 0 ≤ a ∧ a ≤ 15) (hi : decodeRequest sel a = .ok i) {n : Nat}
    (hn : (n : Int) = 0x1000 + (15 - a) * 128 + 0x40 + code.toNat) : decodeTableWord 16 n = some i := by
  have hw : n = (buildPacket (addrEnc a) code).toNat := by
    have := addrEnc_toNat ha
    rw [buildPacket_toNat]
    omega
  rw [hw, decodeTableWord_packet, decodePacket_buildPacket_addrEnc hc ha, hi]
  rfl

/-- A word that masks to no match value is read as nothing. -/
theorem decodeTableWord_of_not_mem {w : Packet} (h : w &&& 0x187F#13 ∉ matchValues) : decodeTableWord 16 w.toNat = none := by
  rw [decodeTableWord_packet, decodePacket_of_not_mem h]
  rfl

/-! ### Unknown selectors -/

/-- A selector past the Command Table is reported whatever the address (44_protocol_sequencer.md R161, 60_exceptions.md R191). -/
theorem step_unknownCommand {s : State} (hr : s.ports.rst = false) (hs : s.seqState = .validating) (hc : 4 < s.cmdQ) :
    step s = .next (s.nextCycle.raise .commandNotFound) := by
  rw [step_validating hr hs, issue, romRead_eq_none.2 hc]

/-- Every name has a selector of the Command Table or 7 (30_encoding.md R82). -/
theorem selOfName_le_or_eq (name : String) : selOfName name ≤ 4 ∨ selOfName name = 7 := by
  by_cases h : name ∈ ["light", "fan-off", "fan-low", "fan-medium", "fan-high"]
  · have listed : ∀ n ∈ ["light", "fan-off", "fan-low", "fan-medium", "fan-high"], selOfName n ≤ 4 := by decide
    exact .inl (listed name h)
  · exact .inr (selOfName_of_not_mem h)

end Sys2Proof.Machine

namespace Sys2Proof.Claims
open Sys2Proof.Machine

/-- Settles O2: an instruction is a symbol, sent as its own bit, or a request, sent as the packet the core builds for it. -/
theorem decodeOfEncode : Obligations.DecodeOfEncode := by
  intro i hwf
  cases hreq : encodeRequest i with
  | none =>
    obtain ⟨b, rfl⟩ := eq_decodeSymbol_of_encodeRequest hreq
    rw [encode_decodeSymbol, decode_single]
  | some r =>
    obtain ⟨sel, a⟩ := r
    have hi := decodeRequest_of_encodeRequest hreq
    have ha := (wellFormed_iff_of_decodeRequest hi).1 hwf
    cases hc : romRead sel with
    | none =>
      rw [decodeRequest_error_of_lt a (romRead_eq_none.1 hc)] at hi
      cases hi
    | some code =>
      rw [encode_of_decodeRequest hc ha hi, decode_packetBits, decodePacket_buildPacket_addrEnc hc ha, hi]

/-- Settles O3: what decodes is one bit or a packet built from a legal address and an entry of the Command Table. -/
theorem encodeOfDecode : Obligations.EncodeOfDecode := by
  intro bits i h
  obtain ⟨b, rfl, rfl⟩ | ⟨w, rfl, hw⟩ := decode_eq_ok h
  · exact ⟨wellFormed_decodeSymbol b, encode_decodeSymbol b⟩
  · obtain ⟨sel, code, a, hc, ha, hi, rfl⟩ := decodePacket_eq_ok hw
    exact ⟨(wellFormed_iff_of_decodeRequest hi).2 ha, encode_of_decodeRequest hc ha hi⟩

/-- Settles O4: the match test row by row, the operands back from the packet's fields, and so no two requests share a packet. -/
theorem packetDecodeReturnsOperands : Obligations.PacketDecodeReturnsOperands := by
  refine ⟨fun w => ⟨?light, ?fanOff, ?fanLow, ?fanMedium, ?fanHigh, decodePacket_of_not_mem⟩, ?operands, ?injective⟩
  case light => exact fun h => decodePacket_of_match (sel := 0) rfl h
  case fanOff => exact fun h => decodePacket_of_match (sel := 1) rfl h
  case fanLow => exact fun h => decodePacket_of_match (sel := 2) rfl h
  case fanMedium => exact fun h => decodePacket_of_match (sel := 3) rfl h
  case fanHigh => exact fun h => decodePacket_of_match (sel := 4) rfl h
  case operands => exact fun a sel code h0 h15 hc => decodePacket_buildPacket_addrEnc hc ⟨h0, h15⟩
  case injective =>
    intro a a' sel sel' code code' h0 h15 h0' h15' hc hc' h
    obtain ⟨i, hi⟩ := decodeRequest_ok_of_romRead hc a
    have hi' : decodeRequest sel' a' = .ok i := by
      rw [← decodePacket_buildPacket_addrEnc hc' ⟨h0', h15'⟩, ← h, decodePacket_buildPacket_addrEnc hc ⟨h0, h15⟩, hi]
    have hreq := (encodeRequest_of_decodeRequest hi).symm.trans (encodeRequest_of_decodeRequest hi')
    cases hreq
    exact ⟨rfl, rfl⟩

/-- Settles O14: each field counts at its place, the address field as the complement to 15. -/
theorem packetArithmetic : Obligations.PacketArithmetic := by
  intro a code h0 h15
  rw [buildPacket_toNat, ← addrEnc_toNat ⟨h0, h15⟩]
  push_cast
  rfl

/-- Settles O1: each command's word is the arithmetic of R87 at its address, and the three non-packets, whose code,
preamble and separator are wrong in turn, miss every match value. -/
theorem writtenOutWordsDecode : Obligations.WrittenOutWordsDecode := by
  refine ⟨?light, ?fanOff, ?fanLow, ?fanMedium, ?fanHigh, rfl, rfl, ?wire, ?code, ?preamble, ?separator⟩
  case light => exact decodeTableWord_of_request (sel := 0) (a := 15) rfl (by decide) rfl (by decide)
  case fanOff => exact decodeTableWord_of_request (sel := 1) (a := 15) rfl (by decide) rfl (by decide)
  case fanLow => exact decodeTableWord_of_request (sel := 2) (a := 5) rfl (by decide) rfl (by decide)
  case fanMedium => exact decodeTableWord_of_request (sel := 3) (a := 9) rfl (by decide) rfl (by decide)
  case fanHigh => exact decodeTableWord_of_request (sel := 4) (a := 0) rfl (by decide) rfl (by decide)
  case wire =>
    have hbits := packetBits_buildPacket (addrEnc 2) 0b111110
    exact hbits ▸ (decode_packetBits _).trans (decodePacket_buildPacket_addrEnc (sel := 0) rfl (by decide))
  case code => exact decodeTableWord_of_not_mem (w := 0x16FB) (by decide)
  case preamble => exact decodeTableWord_of_not_mem (w := 0x06FE) (by decide)
  case separator => exact decodeTableWord_of_not_mem (w := 0x16BE) (by decide)

/-- Settles O5: the request port's encoder and decoder undo each other, and the decoder knows no selector past 4. -/
theorem requestDecodeOfEncode : Obligations.RequestDecodeOfEncode := by
  refine ⟨?commands, fun sel a => decodeRequest_error_of_lt a, fun i sel a => decodeRequest_of_encodeRequest, rfl, rfl⟩
  case commands =>
    intro a p hp
    simp only [fiveCommands, List.mem_cons, List.not_mem_nil, or_false] at hp
    obtain rfl | rfl | rfl | rfl | rfl := hp <;> exact ⟨rfl, rfl⟩

/-- Settles O9: a name is listed or has selector 7, and the core reports every selector past the Command Table alike. -/
theorem selOfNameIsExact : Obligations.SelOfNameIsExact := by
  refine ⟨?listed, fun _ => selOfName_of_not_mem, ?nearMisses, ?noImage, ?core⟩
  case listed | nearMisses => decide
  case noImage =>
    intro name
    have := selOfName_le_or_eq name
    omega
  case core =>
    intro s hr hs hsel
    have pastTable : ∀ sel ∈ [5, 6, 7], 4 < sel := by decide
    exact step_unknownCommand hr hs (pastTable s.cmdQ hsel)

end Sys2Proof.Claims
end

section
/-! PROOFS. The Address Encoder (41_address_encoder.md R115 to R120): its check, made on the whole word, its encoding, and
the port that brings it an address. -/

namespace Sys2Proof.Machine

/-! ### The check -/

theorem addrValid_iff (a : Int) : addrValid a = true ↔ 0 ≤ a ∧ a ≤ 15 := decide_eq_true_iff

/-- All bits above bit 3 are 0 exactly when the word, read without a sign, is at most 15. -/
theorem ushiftRight_four_eq_zero_iff {w : Nat} (a : BitVec w) : a >>> 4 = 0 ↔ a.toNat ≤ 15 := by
  rw [← BitVec.toNat_inj, BitVec.toNat_ushiftRight, Nat.shiftRight_eq_div_pow]
  simp only [BitVec.ofNat_eq_ofNat, BitVec.toNat_ofNat, Nat.zero_mod]
  omega

/-- With a fifth bit for the sign, a word from 0 to 15 reads the same with a sign and without. -/
theorem toInt_legal_iff_toNat_le {w : Nat} (hw : 5 ≤ w) (a : BitVec w) : (0 ≤ a.toInt ∧ a.toInt ≤ 15) ↔ a.toNat ≤ 15 := by
  have hpow : 2 ^ 5 ≤ 2 ^ w := Nat.pow_le_pow_right (by decide) hw
  have hlt := a.isLt
  rw [BitVec.toInt_eq_toNat_cond]
  split <;> omega

/-! ### The encoding -/

theorem encodeAddress_legal {a : Int} (ha : 0 ≤ a ∧ a ≤ 15) : encodeAddress a = some (addrEnc a) :=
  if_pos ((addrValid_iff a).2 ha)

theorem encodeAddress_outOfRange {a : Int} (ha : ¬(0 ≤ a ∧ a ≤ 15)) : encodeAddress a = none :=
  if_neg (mt (addrValid_iff a).1 ha)

theorem complement_addrEnc (a : Int) : ~~~(addrEnc a) = BitVec.ofInt 4 a := BitVec.not_not

theorem addrEnc_natCast (n : Nibble) : addrEnc (n.toNat : Int) = ~~~n := by
  rw [addrEnc, BitVec.ofInt_natCast, BitVec.ofNat_toNat, BitVec.setWidth_eq]

/-- The only legal address with a given encoding is the encoding's complement to 15. -/
theorem eq_of_addrEnc_eq {a : Int} {n : Nibble} (ha : 0 ≤ a ∧ a ≤ 15) (h : addrEnc a = n) : a = 15 - (n.toNat : Int) := by
  rw [← h, addrEnc_toNat ha, sub_sub_cancel]

/-! ### The port -/

/-- What the port can hold, it samples unchanged. -/
theorem sampleAddr_of_representable {c : Config} {a : Int} (hc : 1 ≤ c.addrW) (h : addrRepresentable c a = true) :
    sampleAddr c a = a := by
  have hpow : (2 : Int) ^ c.addrW = 2 * 2 ^ (c.addrW - 1) := by
    rw [← pow_succ', Nat.sub_add_cancel hc]
  rw [addrRepresentable, decide_eq_true_iff] at h
  apply Int.bmod_eq_of_le_mul_two <;> push_cast [hpow] <;> omega

/-- A port of at least 6 bits holds every legal address, and the -1 that stands for what it cannot hold. -/
theorem representable_of_le_15 {c : Config} {a : Int} (hc : 6 ≤ c.addrW) (ha : -1 ≤ a ∧ a ≤ 15) :
    addrRepresentable c a = true := by
  have hpow : (2 : Int) ^ 5 ≤ 2 ^ (c.addrW - 1) := pow_le_pow_right₀ (by decide) (by omega)
  rw [addrRepresentable, decide_eq_true_iff]
  omega

/-- An integer arrives as itself where the port can hold it, and as -1 where it cannot (41_address_encoder.md R119 e). -/
theorem sampleAddr_presentAddr {c : Config} (hc : 6 ≤ c.addrW) (a : Int) :
    sampleAddr c (presentAddr c a) = if addrRepresentable c a then a else -1 := by
  rw [presentAddr]
  split
  next h => exact sampleAddr_of_representable (by omega) h
  next => exact sampleAddr_of_representable (by omega) (representable_of_le_15 hc (by decide))

theorem sampleAddr_presentAddr_legal {c : Config} {a : Int} (hc : 6 ≤ c.addrW) (ha : 0 ≤ a ∧ a ≤ 15) :
    sampleAddr c (presentAddr c a) = a := by
  rw [sampleAddr_presentAddr hc, if_pos (representable_of_le_15 hc (by omega))]

end Sys2Proof.Machine

namespace Sys2Proof.Claims
open Sys2Proof.Machine

/-- Settles O10: both the check and the bit test ask that the word be 0 to 15, read with a sign and without. -/
theorem addressCheckCoversWholeWord : Obligations.AddressCheckCoversWholeWord := by
  refine ⟨?everyWord, by decide, by decide, by decide⟩
  case everyWord =>
    intro w a hw
    rw [addrValid_iff, toInt_legal_iff_toNat_le hw, ushiftRight_four_eq_zero_iff]

/-- Settles O11: the encoding complements four bits, which is its own inverse, and as a number is the complement to 15. -/
theorem addressEncoderLaws : Obligations.AddressEncoderLaws := by
  refine ⟨?laws, ?bijection, fun a => encodeAddress_outOfRange⟩
  case laws =>
    intro a h0 h15
    have sum : ((addrEnc a).toNat : Int) + a = 15 := by rw [addrEnc_toNat ⟨h0, h15⟩, sub_add_cancel]
    have twice : addrEnc ((addrEnc a).toNat : Int) = BitVec.ofInt 4 a := by rw [addrEnc_natCast, complement_addrEnc]
    exact ⟨complement_addrEnc a, sum, twice, encodeAddress_legal ⟨h0, h15⟩⟩
  case bijection =>
    intro n
    have hn := n.isLt
    exact ⟨15 - (n.toNat : Int), ⟨by omega, by omega, addrEnc_complement n⟩, fun a' h0 h15 h => eq_of_addrEnc_eq ⟨h0, h15⟩ h⟩

/-- Settles O12: a legal address arrives as itself; any other integer arrives as itself or as -1, illegal both ways. -/
theorem presentedAddressIsJudgedWhole : Obligations.PresentedAddressIsJudgedWhole := by
  rintro c a ⟨-, haddrW, -⟩
  refine ⟨?judged, fun h0 h15 => sampleAddr_presentAddr_legal haddrW ⟨h0, h15⟩⟩
  case judged =>
    rw [addrValid_iff]
    by_cases ha : 0 ≤ a ∧ a ≤ 15
    · rw [sampleAddr_presentAddr_legal haddrW ha]
    · rw [sampleAddr_presentAddr haddrW]
      split <;> omega

end Sys2Proof.Claims
end

section
/-! PROOFS. A symbol of a transmission: each cycle of its two phases (42_bit_transmitter.md R131), and the whole of it, from
its first low cycle to the start of what follows (R125 to R132). -/

namespace Sys2Proof.Machine

variable {s t : State} {b : Bool}

/-! ### One cycle -/

/-- Outside a symbol's two phases there is no symbol to run (42_bit_transmitter.md R134). -/
theorem symbolCycle_refused (b : Bool) (h : s.seqState ≠ .transmitting ∨ s.txPhase = .gap) :
    symbolCycle b s = .refused .noSymbolInProgress := by
  unfold symbolCycle
  split
  next hs hp => simp [hs, hp] at h
  next hs hp => simp [hs, hp] at h
  next => rfl

/-- In both phases of a symbol the step is a cycle of the packet bit in progress (44_protocol_sequencer.md R170). -/
theorem step_symbol (hr : s.ports.rst = false) (hs : s.seqState = .transmitting) (hc : s.repCnt < s.build.reps)
    (hp : s.txPhase ≠ .gap) : step s = symbolCycle s.currentBit s.nextCycle := by
  cases hph : s.txPhase with
  | low => rw [step_low hr hs hph hc, symbolCycle_low (s := s.nextCycle) hs hph]
  | high => rw [step_high hr hs hph hc, symbolCycle_high (s := s.nextCycle) hs hph]
  | gap => exact absurd hph hp

/-! ### Every cycle of a symbol -/

/-- Until a symbol's phase ends, every step is a cycle of the bit that was in progress at its start. -/
theorem step_after_phaseStart {k : Nat} (hv : s.build.Valid) (hs : s.seqState = .transmitting)
    (hc : s.repCnt < s.build.reps) (hp : s.txPhase ≠ .gap) (ht : s.timer = 0)
    (hk : k < phaseCycles s.build s.currentBit s.txPhase) (hr : s.NoReset (k + 1)) (hrun : runCycles k s = .next t) :
    step t = symbolCycle s.currentBit t.nextCycle := by
  obtain ⟨hcount, -⟩ := run_counts k hs hc (by omega) (phaseCycles_bounds hv _ _).2 (hr.mono (by omega))
  rw [hcount] at hrun
  cases hrun
  exact step_symbol (hr.last (by omega) rfl) hs hc hp

/-- Every step of a symbol, its low phase and then its high phase, is a cycle of the one bit. -/
theorem step_within_symbol {k : Nat} (hv : s.build.Valid) (hs : s.seqState = .transmitting) (hc : s.repCnt < s.build.reps)
    (hp : s.txPhase = .low) (ht : s.timer = 0) (hr : s.NoReset s.build.nSym) (hk : k < s.build.nSym)
    (hrun : runCycles k s = .next t) : step t = symbolCycle s.currentBit t.nextCycle := by
  have hsum := lowCycles_add_highCycles s.build s.currentBit
  by_cases hlow : k < lowCycles s.build s.currentBit
  · exact step_after_phaseStart hv hs hc (by simp [hp]) ht (by rwa [hp]) (hr.mono (by omega)) hrun
  · obtain ⟨j, rfl⟩ := Nat.exists_eq_add_of_le (Nat.le_of_not_lt hlow)
    obtain ⟨hhigh, -⟩ := run_low hv hs hc hp ht rfl (hr.mono (by omega))
    rw [runCycles_add hhigh] at hrun
    have hj : j < highCycles s.build s.currentBit := by omega
    exact step_after_phaseStart (s := { s with line := true, txPhase := .high, timer := 0, inputs := _ })
      hv hs hc nofun rfl hj (.drop (hr.mono (by omega)) rfl) hrun

/-! ### The whole symbol -/

/-- A symbol started with the line low takes `N_SYM` cycles, low and then high, and leaves the line low at the start of the
next bit or of the gap (42_bit_transmitter.md R127, R128, R132). -/
theorem run_symbol (hv : s.build.Valid) (hs : s.seqState = .transmitting) (hc : s.repCnt < s.build.reps)
    (hp : s.txPhase = .low) (ht : s.timer = 0) (hl : s.line = false) (hr : s.NoReset s.build.nSym) :
    runCycles s.build.nSym s = .next (if s.bitIdx = 12 then { s with txPhase := .gap, inputs := s.inputs.drop s.build.nSym }
      else { s with bitIdx := s.bitIdx + 1, inputs := s.inputs.drop s.build.nSym }) ∧
    ∀ {α : Type} (f : State → α), ReadsOutputsOnly f → traceOf f s.build.nSym s =
      List.replicate (lowCycles s.build s.currentBit) (f s) ++
        List.replicate (highCycles s.build s.currentBit) (f { s with line := true }) := by
  have hsum := lowCycles_add_highCycles s.build s.currentBit
  rw [← hsum] at hr ⊢
  obtain ⟨hlow, hlowTrace⟩ := run_low hv hs hc hp ht rfl (hr.mono (by omega))
  obtain ⟨hhigh, hhighTrace⟩ := run_high
    (s := { s with line := true, txPhase := .high, timer := 0, inputs := s.inputs.drop (lowCycles s.build s.currentBit) })
    hv hs hc rfl rfl rfl (.drop hr rfl)
  refine ⟨?state, fun f hf => ?trace⟩
  case state =>
    rw [runCycles_add hlow]
    refine hhigh.trans ?_
    by_cases hb : s.bitIdx = 12
    · simp [hb, ht, hl, State.currentBit]
    · simp [hb, ht, hl, hp, State.currentBit]
  case trace =>
    rw [traceOf_add f hlow, hlowTrace f hf]
    exact congrArg _ ((hhighTrace f hf).trans (congrArg _ (hf _ _ rfl rfl rfl)))

/-- A symbol's waveform: the line is low for its low phase and then high for its high phase (42_bit_transmitter.md R131). -/
theorem lineTrace_symbol (hv : s.build.Valid) (hs : s.seqState = .transmitting) (hc : s.repCnt < s.build.reps)
    (hp : s.txPhase = .low) (ht : s.timer = 0) (hl : s.line = false) (hr : s.NoReset s.build.nSym) :
    lineTrace s.build.nSym s = List.replicate (lowCycles s.build s.currentBit) false ++
      List.replicate (highCycles s.build s.currentBit) true := by
  obtain ⟨-, htrace⟩ := run_symbol hv hs hc hp ht hl hr
  have hline := htrace State.lineOut (fun _ _ _ h _ => h)
  rwa [State.lineOut, hl] at hline

end Sys2Proof.Machine

namespace Sys2Proof.Claims
open Sys2Proof.Machine

/-- Settles O22: both phases of the bit in progress, one after the other. -/
theorem symbolWaveform : Obligations.SymbolWaveform := by
  intro s hv hs hp ht hl hc hr p hmem hbit
  refine ⟨⟨lowCycle p.2 s, ?completes⟩, fun k hk t hrun => ?cycles, (run_symbol hv hs hc hp ht hl hr).1, ?line⟩
  case completes => rw [exec_twoSymbols hmem, symbolCycle_low hs hp]
  case cycles => rw [exec_twoSymbols hmem, ← hbit, step_within_symbol hv hs hc hp ht hr hk hrun]
  case line => exact hbit ▸ lineTrace_symbol hv hs hc hp ht hl hr

/-- Settles O19: the phase's last cycle ends it, any other counts. -/
theorem symbolLowCycle : Obligations.SymbolLowCycle := by
  intro s hs hp p hmem
  rw [exec_twoSymbols hmem, symbolCycle_low hs hp]
  refine ⟨fun hlast => ?last, fun hcount => ?count⟩
  case last => rw [lowCycle_last hlast]; rfl
  case count => rw [lowCycle_count hcount]; rfl

/-- Settles O20: the phase's last cycle ends it, after bit 12 with the gap next, and any other counts. -/
theorem symbolHighCycle : Obligations.SymbolHighCycle := by
  intro s hs hp p hmem
  rw [exec_twoSymbols hmem, symbolCycle_high hs hp]
  refine ⟨fun hlast => ?last, fun hcount => ?count⟩
  case last =>
    rw [highCycle_last hlast]
    split
    next hb => rw [endHigh_of_lastBit hb]
    next hb => rw [endHigh_of_moreBits hb]
  case count => rw [highCycle_count hcount]; rfl

/-- Settles O23: a symbol runs in its two phases only. -/
theorem symbolNeedsTransmission : Obligations.SymbolNeedsTransmission := by
  intro s h p hmem
  rw [exec_twoSymbols hmem, symbolCycle_refused p.2 h]

end Sys2Proof.Claims
end

section
/-! PROOFS. Segment traces (43_packet_framer.md R147): how many segments a sequence of symbols has, how long they last, and
how often they set the line. -/

namespace Sys2Proof.Machine

variable (c : Config) (bits : List Bool) (p : Packet)

/-- The number of high segments of a trace. -/
def highSegs (segs : List Segment) : Nat := segs.countP Prod.fst

/-- A high segment is one `set_high()` and one `set_low()`, a low segment neither, wherever the trace starts
(10_state.md R33). -/
theorem lineOpsFrom_count (op : LineOp) (t : Nat) (segs : List Segment) :
    ((lineOpsFrom t segs).filter (fun e => e.1 == op)).length = highSegs segs := by
  induction segs generalizing t with
  | nil => rfl
  | cons seg segs ih =>
    obtain ⟨high, d⟩ := seg
    cases high with
    | false => exact (ih (t + d)).trans (by simp [highSegs])
    | true => cases op <;> simpa [lineOpsFrom, highSegs] using ih (t + d)

/-! ### Traces put together -/

@[simp] theorem segsUs_append (xs ys : List Segment) : segsUs (xs ++ ys) = segsUs xs + segsUs ys := by
  simp [segsUs]

@[simp] theorem highSegs_append (xs ys : List Segment) : highSegs (xs ++ ys) = highSegs xs + highSegs ys :=
  List.countP_append

/-- What adds up over traces put together is multiplied by the number of copies. -/
theorem additive_replicate_flatten {f : List Segment → Nat} (hnil : f [] = 0)
    (happend : ∀ xs ys, f (xs ++ ys) = f xs + f ys) (n : Nat) (segs : List Segment) :
    f (List.replicate n segs).flatten = n * f segs := by
  induction n with
  | zero => rw [List.replicate_zero, List.flatten_nil, hnil, Nat.zero_mul]
  | succ n ih => rw [List.replicate_succ, List.flatten_cons, happend, ih, Nat.succ_mul, Nat.add_comm]

/-! ### A sequence of symbols: each has a low segment and a high one -/

theorem bitsSegs_cons (b : Bool) : bitsSegs c (b :: bits) = symSegs c b ++ bitsSegs c bits := rfl

theorem bitsSegs_length : (bitsSegs c bits).length = 2 * bits.length := by
  induction bits with
  | nil => rfl
  | cons b bits ih => rw [bitsSegs_cons, List.length_append, ih, List.length_cons, Nat.mul_succ, Nat.add_comm]; rfl

theorem segsUs_symSegs (b : Bool) : segsUs (symSegs c b) = c.tSymUs :=
  lowUs_add_highUs c b

theorem segsUs_bitsSegs : segsUs (bitsSegs c bits) = bits.length * c.tSymUs := by
  induction bits with
  | nil => exact (Nat.zero_mul _).symm
  | cons b bits ih => rw [bitsSegs_cons, segsUs_append, segsUs_symSegs, ih, List.length_cons, Nat.succ_mul, Nat.add_comm]

theorem highSegs_bitsSegs : highSegs (bitsSegs c bits) = bits.length := by
  induction bits with
  | nil => rfl
  | cons b bits ih => rw [bitsSegs_cons, highSegs_append, ih, List.length_cons, Nat.add_comm]; rfl

/-! ### A packet, a copy, a transmission -/

theorem packetSegs_length : (packetSegs c p).length = 26 := by
  rw [packetSegs, bitsSegs_length, packetBits_length]

theorem segsUs_packetSegs : segsUs (packetSegs c p) = c.tPacketUs := by
  rw [packetSegs, segsUs_bitsSegs, packetBits_length, Config.tPacketUs]

theorem highSegs_packetSegs : highSegs (packetSegs c p) = 13 := by
  rw [packetSegs, highSegs_bitsSegs, packetBits_length]

theorem copySegs_length : (copySegs c p).length = 27 := by
  rw [copySegs, List.length_append, packetSegs_length]; rfl

theorem segsUs_copySegs : segsUs (copySegs c p) = c.tRepUs := by
  rw [copySegs, segsUs_append, segsUs_packetSegs]; rfl

theorem highSegs_copySegs : highSegs (copySegs c p) = 13 := by
  rw [copySegs, highSegs_append, highSegs_packetSegs]; rfl

theorem transmissionSegs_length : (transmissionSegs c p).length = 27 * c.reps := by
  rw [transmissionSegs, additive_replicate_flatten rfl (fun _ _ => List.length_append), copySegs_length, Nat.mul_comm]

theorem segsUs_transmissionSegs : segsUs (transmissionSegs c p) = c.tTransmissionUs := by
  rw [transmissionSegs, additive_replicate_flatten rfl segsUs_append, segsUs_copySegs, Config.tTransmissionUs]

theorem highSegs_transmissionSegs : highSegs (transmissionSegs c p) = 13 * c.reps := by
  rw [transmissionSegs, additive_replicate_flatten rfl highSegs_append, highSegs_copySegs, Nat.mul_comm]

end Sys2Proof.Machine

namespace Sys2Proof.Claims
open Sys2Proof.Machine

/-- Settles O47: counts, durations and line operations add up over symbols, copies and their gaps. -/
theorem segmentTraceTotals : Obligations.SegmentTraceTotals := by
  intro c p
  have lineOps (op : LineOp) :
      ((lineOpsFrom 0 (transmissionSegs c p)).filter (fun e => e.1 == op)).length = 13 * c.reps := by
    rw [lineOpsFrom_count, highSegs_transmissionSegs]
  exact ⟨packetSegs_length c p, segsUs_packetSegs c p, transmissionSegs_length c p, segsUs_transmissionSegs c p,
    lineOps .setHigh, lineOps .setLow⟩

end Sys2Proof.Claims
end

section
/-! PROOFS. The tolerance (42_bit_transmitter.md R130, R131, 43_packet_framer.md R144): the windows of measured phases and
gaps, and the clock error that keeps a phase within its own. -/

namespace Sys2Proof.Machine

variable {c : Config}

theorem phaseConforms_iff {nominal m : Nat} :
    phaseConforms c nominal m = true ↔ nominal ≤ m + c.tolUs ∧ m ≤ nominal + c.tolUs := decide_eq_true_iff

theorem phaseConforms_self (c : Config) (nominal : Nat) : phaseConforms c nominal nominal = true :=
  phaseConforms_iff.2 ⟨Nat.le_add_right _ _, Nat.le_add_right _ _⟩

theorem symbolConforms_iff {b : Bool} {low high : Nat} : symbolConforms c b low high = true ↔
    phaseConforms c (lowUs c b) low = true ∧ phaseConforms c (highUs c b) high = true := Bool.and_eq_true_iff

theorem gapConforms_iff {m : Nat} : gapConforms c m = true ↔ c.tSymUs < m := decide_eq_true_iff

theorem clockErrorFits_iff {nominal num den : Nat} :
    clockErrorFits c nominal num den = true ↔ nominal * num ≤ c.tolUs * den := decide_eq_true_iff

/-- What the windows rest on in a valid build: the short one ends below the long one (log 16), and a gap outlasts a
symbol. -/
theorem Config.Valid.windows (h : c.Valid) : c.tShortUs + c.tolUs < c.tLongUs - c.tolUs ∧ c.tSymUs < c.tGapUs := by
  obtain ⟨⟨-, -, -, hwindow, hgap⟩, -⟩ := h
  exact ⟨hwindow, hgap⟩

/-- No measured phase passes as both lengths (42_bit_transmitter.md R130). -/
theorem phaseConforms_long_short (h : c.Valid) (m : Nat) :
    ¬(phaseConforms c c.tLongUs m = true ∧ phaseConforms c c.tShortUs m = true) := by
  rintro ⟨hlong, hshort⟩
  obtain ⟨hwindow, -⟩ := Config.Valid.windows h
  rw [phaseConforms_iff] at hlong hshort
  omega

/-- A low phase tells the symbols apart, so none passes as both (42_bit_transmitter.md R130). -/
theorem symbolConforms_other {b : Bool} {low high : Nat} (h : c.Valid) (hb : symbolConforms c b low high = true) :
    symbolConforms c (!b) low high = false := by
  rw [← Bool.not_eq_true]
  intro hother
  obtain ⟨hlow, -⟩ := symbolConforms_iff.1 hb
  obtain ⟨hlow', -⟩ := symbolConforms_iff.1 hother
  cases b with
  | false => exact phaseConforms_long_short h low ⟨hlow', hlow⟩
  | true => exact phaseConforms_long_short h low ⟨hlow, hlow'⟩

end Sys2Proof.Machine

namespace Sys2Proof.Claims
open Sys2Proof.Machine

/-- Settles O50: a window reaches the tolerance below and above its nominal length, and a valid build's two do not meet. -/
theorem conformanceWindows : Obligations.ConformanceWindows := by
  refine ⟨fun m => ?long, fun m => ?short, fun c m h => phaseConforms_long_short h m, fun c b => ?nominal,
    fun c b low high h => symbolConforms_other h, fun c h => gapConforms_iff.2 (Config.Valid.windows h).2⟩
  case long | short =>
    rw [phaseConforms_iff, show Config.default.tolUs = 100 from rfl]
    omega
  case nominal => exact symbolConforms_iff.2 ⟨phaseConforms_self c _, phaseConforms_self c _⟩

/-- Settles O51: the tolerance is the same for both phases, so the longer one uses it up first. -/
theorem longPhaseBindsClockError : Obligations.LongPhaseBindsClockError := by
  refine ⟨fun c num den h hfits => ?shortFits, fun num den => ?defaults⟩
  case shortFits =>
    obtain ⟨hwindow, -⟩ := Config.Valid.windows h
    rw [clockErrorFits_iff] at hfits ⊢
    calc c.tShortUs * num ≤ c.tLongUs * num := Nat.mul_le_mul_right num (by omega)
      _ ≤ c.tolUs * den := hfits
  case defaults => rw [clockErrorFits_iff, Nat.mul_comm 775 num]; rfl

end Sys2Proof.Claims
end

section
/-! PROOFS. The gap and the repetition counter cycle by cycle (43_packet_framer.md R144, R146), and why a transmission
always ends (R145): the cycles it still takes count down to DONE. -/

namespace Sys2Proof.Machine

variable {s t : State}

/-! ### The cycles a transmission still takes, from any position in it -/

/-- The cycles of the copies after the one in progress. -/
def State.cyclesAfterCopy (s : State) : Nat := (s.build.reps - 1 - s.repCnt) * s.build.nRep

/-- The cycles after the symbol in progress: the copy's other symbols, its gap, the copies after it. -/
def State.cyclesAfterSymbol (s : State) : Nat :=
  (12 - s.bitIdx.val) * s.build.nSym + s.build.nGap + s.cyclesAfterCopy

/-- The cycles after the phase in progress. -/
def State.cyclesAfterPhase (s : State) : Nat :=
  match s.txPhase with
  | .low => highCycles s.build s.currentBit + s.cyclesAfterSymbol
  | .high => s.cyclesAfterSymbol
  | .gap => s.cyclesAfterCopy

/-- The cycles left in the transmission, the current one included (43_packet_framer.md R145). -/
def State.cyclesLeft (s : State) : Nat :=
  phaseCycles s.build s.currentBit s.txPhase - s.timer + s.cyclesAfterPhase

theorem State.cyclesLeft_of_phaseStart (ht : s.timer = 0) :
    s.cyclesLeft = phaseCycles s.build s.currentBit s.txPhase + s.cyclesAfterPhase := by
  rw [State.cyclesLeft, ht, Nat.sub_zero]

theorem State.cyclesLeft_of_symbolStart (hp : s.txPhase = .low) (ht : s.timer = 0) :
    s.cyclesLeft = s.build.nSym + s.cyclesAfterSymbol := by
  rw [State.cyclesLeft_of_phaseStart ht, State.cyclesAfterPhase, hp, ← lowCycles_add_highCycles s.build s.currentBit,
    Nat.add_assoc]
  rfl

theorem State.cyclesLeft_of_lastCycle (h : s.timer + 1 = phaseCycles s.build s.currentBit s.txPhase) :
    s.cyclesLeft = s.cyclesAfterPhase + 1 := by
  rw [State.cyclesLeft, ← h]
  omega

theorem State.InTransmission.cyclesLeft_pos (h : s.InTransmission) : 0 < s.cyclesLeft :=
  Nat.add_pos_left (Nat.sub_pos_of_lt h.cycle) _

/-- What is left is never more than the whole. -/
theorem State.cyclesLeft_le (hc : s.repCnt < s.build.reps) : s.cyclesLeft ≤ s.build.nTransmission := by
  have hsum := lowCycles_add_highCycles s.build s.currentBit
  have hbits : (12 - s.bitIdx.val) * s.build.nSym ≤ 12 * s.build.nSym := Nat.mul_le_mul_right _ (by omega)
  have hcopy : s.cyclesLeft ≤ s.build.nRep + s.cyclesAfterCopy := by
    rw [State.cyclesLeft, State.cyclesAfterPhase, State.cyclesAfterSymbol, Config.nRep]
    cases s.txPhase <;> simp only [phaseCycles] <;> omega
  calc s.cyclesLeft ≤ s.build.nRep + s.cyclesAfterCopy := hcopy
    _ = (s.build.reps - 1 - s.repCnt + 1) * s.build.nRep := by rw [State.cyclesAfterCopy, Nat.succ_mul, Nat.add_comm]
    _ ≤ s.build.nTransmission := Nat.mul_le_mul_right _ (by omega)

/-- The next bit's symbol takes one of the symbols that were left. -/
theorem State.cyclesAfterSymbol_of_moreBits (hbit : s.bitIdx ≠ 12) (hi : t.bitIdx = s.bitIdx + 1)
    (hb : t.build = s.build) (hc : t.repCnt = s.repCnt) :
    s.cyclesAfterSymbol = t.build.nSym + t.cyclesAfterSymbol := by
  have hlast : s.bitIdx < Fin.last 12 := Fin.lt_last_iff_ne_last.2 hbit
  have hval : t.bitIdx.val = s.bitIdx.val + 1 := hi ▸ Fin.val_add_one_of_lt hlast
  have hsymbols : 12 - s.bitIdx.val = 12 - t.bitIdx.val + 1 := by omega
  rw [State.cyclesAfterSymbol, State.cyclesAfterSymbol, State.cyclesAfterCopy, State.cyclesAfterCopy, hb, hc, hsymbols,
    Nat.succ_mul]
  omega

/-- The next copy takes one of the repetitions that were left. -/
theorem State.cyclesAfterCopy_of_moreCopies (hc : s.repCnt + 1 < s.build.reps) :
    s.cyclesAfterCopy = s.build.nSym + s.nextCopy.cyclesAfterSymbol := by
  have hcopies : s.build.reps - 1 - s.repCnt = s.build.reps - 1 - (s.repCnt + 1) + 1 := by omega
  rw [State.cyclesAfterSymbol, State.cyclesAfterCopy, State.cyclesAfterCopy, hcopies, Nat.succ_mul, Config.nRep]
  simp only [State.nextCopy_build, State.nextCopy_repCnt, State.nextCopy_bitIdx, Fin.val_zero, Config.nRep]
  omega

/-- Every cycle of a transmission is one of those left: the last of them completes it, after any other one less is left. -/
theorem PhaseStep.cyclesLeft_eq (hb : s.build.Valid) (hpos : s.InTransmission) (h : PhaseStep s.currentBit s t) :
    (t.seqState = s.seqState ∧ s.cyclesLeft = t.cyclesLeft + 1) ∨ (t.seqState = .done ∧ s.cyclesLeft = 1) := by
  cases h with
  | count hn =>
    have hcycle := hpos.cycle
    have hnext : s.countCycle.timer = s.timer + 1 :=
      timerNext_of_lt (by omega) (phaseCycles_bounds hb s.currentBit s.txPhase).2
    have hleft : s.countCycle.cyclesLeft =
        phaseCycles s.build s.currentBit s.txPhase - (s.timer + 1) + s.cyclesAfterPhase := hnext ▸ rfl
    refine .inl ⟨rfl, ?_⟩
    rw [hleft, State.cyclesLeft]
    omega
  | endLow hp hn =>
    refine .inl ⟨rfl, ?_⟩
    rw [State.cyclesLeft_of_lastCycle hn, State.cyclesAfterPhase, hp, State.cyclesLeft_of_phaseStart rfl]
    rfl
  | nextBit hp hn hbit =>
    refine .inl ⟨rfl, ?_⟩
    rw [State.cyclesLeft_of_lastCycle hn, State.cyclesAfterPhase, hp, State.cyclesLeft_of_symbolStart rfl rfl]
    exact congrArg (· + 1) (State.cyclesAfterSymbol_of_moreBits hbit rfl rfl rfl)
  | startGap hp hn hbit =>
    refine .inl ⟨rfl, ?_⟩
    rw [State.cyclesLeft_of_lastCycle hn, State.cyclesAfterPhase, hp, State.cyclesLeft_of_phaseStart rfl,
      State.cyclesAfterSymbol, hbit, show 12 - (12 : Fin 13).val = 0 from rfl, Nat.zero_mul, Nat.zero_add]
    rfl
  | nextCopy hp hn hcopy =>
    have hmore : s.repCnt + 1 < s.build.reps := by have := hpos.copy; omega
    refine .inl ⟨rfl, ?_⟩
    rw [State.cyclesLeft_of_lastCycle hn, State.cyclesAfterPhase, hp, State.cyclesLeft_of_symbolStart rfl rfl]
    exact congrArg (· + 1) (State.cyclesAfterCopy_of_moreCopies hmore)
  | complete hp hn hcopy =>
    refine .inr ⟨rfl, ?_⟩
    rw [State.cyclesLeft_of_lastCycle hn, State.cyclesAfterPhase, hp, State.cyclesAfterCopy, ← hcopy, Nat.add_sub_cancel,
      Nat.sub_self, Nat.zero_mul]

/-- One cycle of a transmission: one of the cycles left. -/
theorem step_cyclesLeft (hinv : s.Inv) (hs : s.seqState = .transmitting) (hr : s.ports.rst = false) :
    ∃ t, step s = .next t ∧ t.Inv ∧ t.inputs = s.inputs.tail ∧
      ((t.seqState = .transmitting ∧ s.cyclesLeft = t.cyclesLeft + 1) ∨ (t.seqState = .done ∧ s.cyclesLeft = 1)) := by
  obtain ⟨t, ht, hstep⟩ := step_transmitting hr hs (hinv.position hs).copy
  obtain ⟨-, hin, -⟩ := hstep.frame
  have hleft := PhaseStep.cyclesLeft_eq (s := s.nextCycle) hinv.build (hinv.nextCycle.position hs) hstep
  exact ⟨t, ht, hinv.step ht, hin, hleft.imp_left fun ⟨hsame, hone⟩ => ⟨hsame.trans hs, hone⟩⟩

/-- With no reset, a transmission takes exactly the cycles left and ends in DONE (43_packet_framer.md R145). -/
theorem run_cyclesLeft (hinv : s.Inv) (hs : s.seqState = .transmitting) (hr : s.NoReset s.cyclesLeft) :
    ∃ t, runCycles s.cyclesLeft s = .next t ∧ t.Inv ∧ t.seqState = .done := by
  have hpos := (hinv.position hs).cyclesLeft_pos
  generalize hn : s.cyclesLeft = n at hr hpos ⊢
  induction n generalizing s with
  | zero => omega
  | succ n ih =>
    obtain ⟨t, ht, htinv, hin, ⟨hgoesOn, hleft⟩ | ⟨hdone, hleft⟩⟩ := step_cyclesLeft hinv hs (hr.ports hpos)
    · have htr : t.NoReset n := .drop (m := 1) (Nat.add_comm n 1 ▸ hr) (hin.trans List.drop_one.symm)
      have htpos := (htinv.position hgoesOn).cyclesLeft_pos
      rw [runCycles_succ ht]
      exact ih htinv hgoesOn (by omega) htr (by omega)
    · obtain rfl : n = 0 := by omega
      exact ⟨t, runCycles_succ ht, htinv, hdone⟩

end Sys2Proof.Machine

namespace Sys2Proof.Claims
open Sys2Proof.Machine

/-- Settles O28: the gap's last cycle ends it, after the last copy with the transmission complete, and any other counts. -/
theorem gapCountsThenRepeatsOrCompletes : Obligations.GapCountsThenRepeatsOrCompletes := by
  intro s hr hs hp hc
  rw [step_gap hr hs hp hc]
  refine ⟨fun hcount => ?count, fun hlast hcopy => ?complete, fun hlast hcopy => ?nextCopy⟩
  case count =>
    rw [gapCycle_count (s := s.nextCycle) hcount]
    rfl
  case complete =>
    have hlastCopy : s.repCnt + 1 = s.build.reps := by omega
    rw [gapCycle_last (s := s.nextCycle) hlast, endGap_of_lastCopy (s := s.nextCycle) hlastCopy]
    rfl
  case nextCopy =>
    have hmoreCopies : s.repCnt + 1 ≠ s.build.reps := by omega
    rw [gapCycle_last (s := s.nextCycle) hlast, endGap_of_moreCopies (s := s.nextCycle) hmoreCopies]
    rfl

/-- Settles O43: the cycles left, at most a whole transmission's, count down to DONE, where the invariant gives the rest. -/
theorem transmissionAlwaysEnds : Obligations.TransmissionAlwaysEnds := by
  intro s hinv hs hr
  have hle := State.cyclesLeft_le (hinv.position hs).copy
  obtain ⟨t, hrun, htinv, hdone⟩ := run_cyclesLeft hinv hs (hr.mono hle)
  exact ⟨s.cyclesLeft, t, hle, hrun, hdone, htinv.doneOk hdone, htinv.line_eq_false (by simp [hdone])⟩

end Sys2Proof.Claims
end

section
/-! PROOFS. A whole transmission (43_packet_framer.md R145, R147): the segments that a stretch of the machine's run puts on
the line, put together from symbols to packets, copies and the transmission of a command (44_protocol_sequencer.md R178). -/

namespace Sys2Proof.Machine

variable {s t u : State} {xs ys : List Segment} {c : Config}

/-! ### Segments in cycles -/

/-- The cycles a trace takes (44_protocol_sequencer.md R178). -/
def segsLength (c : Config) (segs : List Segment) : Nat := segsUs segs * c.clkMhz

theorem segsLength_append (c : Config) (xs ys : List Segment) :
    segsLength c (xs ++ ys) = segsLength c xs + segsLength c ys := by
  rw [segsLength, segsUs_append, Nat.add_mul, segsLength, segsLength]

theorem segsLength_symSegs (c : Config) (b : Bool) : segsLength c (symSegs c b) = c.nSym := by
  rw [segsLength, segsUs_symSegs, c.nSym_eq_tSymUs_mul_clkMhz]

theorem segsLength_transmissionSegs (c : Config) (p : Packet) : segsLength c (transmissionSegs c p) = c.nTransmission := by
  rw [segsLength, segsUs_transmissionSegs, c.nTransmission_eq_tTransmissionUs_mul_clkMhz]

theorem segsCycles_append (c : Config) (xs ys : List Segment) :
    segsCycles c (xs ++ ys) = segsCycles c xs ++ segsCycles c ys :=
  List.flatMap_append

theorem segsCycles_symSegs (c : Config) (b : Bool) : segsCycles c (symSegs c b) =
    List.replicate (lowCycles c b) false ++ List.replicate (highCycles c b) true := by
  cases b <;> exact congrArg _ (List.append_nil _)

theorem segsCycles_gapSegs (c : Config) : segsCycles c (gapSegs c) = List.replicate c.nGap false :=
  List.append_nil _

/-! ### Runs that send segments -/

/-- The state with another schedule of ports to come. -/
def State.withSchedule (inputs : List PortIn) (s : State) : State := { s with inputs := inputs }

/-- Under every schedule without a reset, the machine runs from `s` through the cycles of `segs` to `t`, the schedule
apart, and meanwhile its outputs are those of `s` with the line at the levels of `segs`. -/
def Sends (c : Config) (s : State) (segs : List Segment) (t : State) : Prop :=
  ∀ inputs : List PortIn, (s.withSchedule inputs).NoReset (segsLength c segs) →
    runCycles (segsLength c segs) (s.withSchedule inputs) = .next (t.withSchedule (inputs.drop (segsLength c segs))) ∧
    ∀ {α : Type} (f : State → α), ReadsOutputsOnly f →
      traceOf f (segsLength c segs) (s.withSchedule inputs) = (segsCycles c segs).map fun level => f (s.lineWrite level)

/-- Segments sent one after the other. -/
theorem Sends.append (hx : Sends c s xs u) (hy : Sends c u ys t) (hs : u.seqState = s.seqState)
    (hr : u.respCode = s.respCode) : Sends c s (xs ++ ys) t := by
  intro inputs hreset
  rw [segsLength_append] at hreset ⊢
  obtain ⟨hrunx, htracex⟩ := hx inputs (hreset.mono (by omega))
  obtain ⟨hruny, htracey⟩ := hy (inputs.drop (segsLength c xs)) (.drop hreset rfl)
  refine ⟨?run, fun f hf => ?trace⟩
  case run => rw [runCycles_add hrunx, hruny, List.drop_drop]
  case trace =>
    have hlevel : (fun level => f (u.lineWrite level)) = fun level => f (s.lineWrite level) :=
      funext fun level => hf _ _ hs rfl hr
    rw [traceOf_add f hrunx, htracex f hf, htracey f hf, hlevel, segsCycles_append, List.map_append]

/-! ### The positions of a transmission -/

/-- The first cycle of the bit at place `i` of copy `r` (10_state.md R53). -/
def State.atSymbol (r : Nat) (i : Fin 13) (s : State) : State :=
  { s with repCnt := r, bitIdx := i, txPhase := .low, timer := 0 }

/-- The first cycle of the gap after copy `r`. -/
def State.atGap (r : Nat) (s : State) : State := { s with repCnt := r, bitIdx := 12, txPhase := .gap, timer := 0 }

/-- The transmission complete, its last copy's gap over (44_protocol_sequencer.md R175). -/
def State.transmitted (s : State) : State :=
  { s with seqState := .done, txPhase := .gap, bitIdx := 12, repCnt := s.build.reps - 1, timer := 0, respCode := .ok }

theorem State.startTransmission_eq_atSymbol (p : Packet) (s : State) :
    s.startTransmission p = (s.startTransmission p).atSymbol 0 0 := rfl

/-- The bits still to send from place `i` on: the bit in progress and the rest. -/
theorem packetBits_drop (p : Packet) (i : Fin 13) :
    (packetBits p).drop i.val = packetBit p i :: (packetBits p).drop (i.val + 1) := by
  obtain ⟨hi, hbit⟩ := List.getElem?_eq_some_iff.1 (packetBits_get p i.isLt)
  rw [List.drop_eq_getElem_cons hi, hbit]
  rfl

/-! ### A symbol, a packet, a copy, a transmission -/

section
variable {r : Nat} (hv : s.build.Valid) (hs : s.seqState = .transmitting) (hl : s.line = false)
include hv hs hl

/-- The symbol of the bit in progress (42_bit_transmitter.md R132). -/
theorem sends_symbol (hr : r < s.build.reps) (i : Fin 13) :
    Sends s.build (s.atSymbol r i) (symSegs s.build (packetBit s.pkt i))
      (if i = 12 then s.atGap r else s.atSymbol r (i + 1)) := by
  intro inputs hreset
  rw [segsLength_symSegs] at hreset ⊢
  obtain ⟨hrun, htrace⟩ := run_symbol (s := (s.atSymbol r i).withSchedule inputs) hv hs hr rfl rfl hl hreset
  refine ⟨hrun.trans ?run, fun f hf => ?trace⟩
  case run =>
    by_cases hi : i = 12
    · rw [if_pos hi]
      exact congrArg _ ((if_pos hi).trans (hi ▸ rfl))
    · rw [if_neg hi]
      exact congrArg _ (if_neg hi)
  case trace =>
    have hlow : f ((s.atSymbol r i).withSchedule inputs) = f ((s.atSymbol r i).lineWrite false) := hf _ _ rfl hl rfl
    have hhigh : f (((s.atSymbol r i).withSchedule inputs).lineWrite true) = f ((s.atSymbol r i).lineWrite true) :=
      hf _ _ rfl rfl rfl
    rw [segsCycles_symSegs, List.map_append, List.map_replicate, List.map_replicate, ← hlow, ← hhigh]
    exact htrace f hf

/-- The gap after copy `r` (43_packet_framer.md R144, R146). -/
theorem sends_gap (hr : r < s.build.reps) : Sends s.build (s.atGap r) (gapSegs s.build)
    (if r + 1 = s.build.reps then s.transmitted else s.atSymbol (r + 1) 0) := by
  intro inputs hreset
  obtain ⟨hrun, htrace⟩ := run_gap (s := (s.atGap r).withSchedule inputs) hv hs hr rfl rfl rfl hreset
  refine ⟨hrun.trans ?run, fun f hf => ?trace⟩
  case run =>
    by_cases hlast : r + 1 = s.build.reps
    · rw [if_pos hlast, State.transmitted, ← hlast]
      exact congrArg _ (if_pos hlast)
    · rw [if_neg hlast]
      exact congrArg _ (if_neg hlast)
  case trace =>
    have hlow : f ((s.atGap r).withSchedule inputs) = f ((s.atGap r).lineWrite false) := hf _ _ rfl hl rfl
    rw [segsCycles_gapSegs, List.map_replicate, ← hlow]
    exact htrace f hf

/-- The symbols of copy `r` from place `i` on (43_packet_framer.md R142). -/
theorem sends_bitsFrom (hr : r < s.build.reps) (i : Fin 13) :
    Sends s.build (s.atSymbol r i) (bitsSegs s.build ((packetBits s.pkt).drop i.val)) (s.atGap r) := by
  induction i using Fin.reverseInduction with
  | last =>
    rw [packetBits_drop]
    exact sends_symbol hv hs hl hr 12
  | cast i ih =>
    have hsymbol := sends_symbol hv hs hl hr i.castSucc
    have hmore : i.castSucc ≠ 12 := i.castSucc_ne_last
    rw [if_neg hmore, Fin.coeSucc_eq_succ] at hsymbol
    rw [packetBits_drop, bitsSegs_cons]
    exact hsymbol.append ih rfl rfl

/-- Copy `r`, its packet and its gap (43_packet_framer.md R143). -/
theorem sends_copy (hr : r < s.build.reps) : Sends s.build (s.atSymbol r 0) (copySegs s.build s.pkt)
    (if r + 1 = s.build.reps then s.transmitted else s.atSymbol (r + 1) 0) :=
  (sends_bitsFrom hv hs hl hr 0).append (sends_gap hv hs hl hr) rfl rfl

/-- The copies from `r` on, `k` of them after it. -/
theorem sends_copiesFrom {k : Nat} (hk : r + 1 + k = s.build.reps) :
    Sends s.build (s.atSymbol r 0) (List.replicate (k + 1) (copySegs s.build s.pkt)).flatten s.transmitted := by
  induction k generalizing r with
  | zero =>
    have hcopy := sends_copy hv hs hl (r := r) (by omega)
    rw [if_pos hk] at hcopy
    simpa using hcopy
  | succ k ih =>
    have hcopy := sends_copy hv hs hl (r := r) (by omega)
    rw [if_neg (by omega)] at hcopy
    exact hcopy.append (ih (by omega)) rfl rfl

/-- A transmission (43_packet_framer.md R145, R147). -/
theorem sends_transmission : Sends s.build (s.atSymbol 0 0) (transmissionSegs s.build s.pkt) s.transmitted := by
  obtain ⟨-, -, -, -, -, hreps⟩ := Config.Valid.cycles hv
  obtain ⟨k, hk⟩ := Nat.exists_eq_add_of_le' hreps
  rw [transmissionSegs, hk]
  exact sends_copiesFrom hv hs hl (by omega)

end

end Sys2Proof.Machine

namespace Sys2Proof.Claims
open Sys2Proof.Machine

/-- The packet as arithmetic is the packet assembled from its fields (30_encoding.md R87, 43_packet_framer.md R141). -/
theorem packetValue_eq_buildPacket {a : Int} (ha : 0 ≤ a ∧ a ≤ 15) (code : Code) :
    packetValue a code.toNat = buildPacket (addrEnc a) code := by
  obtain ⟨h0, h15⟩ := ha
  rw [packetValue, ← packetArithmetic a code h0 h15, BitVec.ofInt_natCast, BitVec.ofNat_toNat, BitVec.setWidth_eq]

/-- The code of a command's row is the Command Table's (30_encoding.md R88). -/
theorem romRead_fiveCommands {a : Int} {p : Nat × Instr × Nat} (hp : p ∈ fiveCommands a) :
    ∃ code, romRead p.1 = some code ∧ code.toNat = p.2.2 := by
  simp only [fiveCommands, List.mem_cons, List.not_mem_nil, or_false] at hp
  obtain rfl | rfl | rfl | rfl | rfl := hp <;> exact ⟨_, rfl, rfl⟩

/-- A command with a legal address starts the transmission of its packet (44_protocol_sequencer.md R181 to R185). -/
theorem exec_fiveCommands_legal {a : Int} {p : Nat × Instr × Nat} (hp : p ∈ fiveCommands a)
    (ha : 0 ≤ a ∧ a ≤ 15) (s : State) :
    exec p.2.1 s = .next (s.startTransmission (packetValue a p.2.2)) := by
  obtain ⟨code, hc, hcode⟩ := romRead_fiveCommands hp
  obtain ⟨hexec, -⟩ := exec_fiveCommands hp s
  rw [hexec, issue_valid s hc ha, ← hcode, packetValue_eq_buildPacket ha]

/-- Settles O18: the command starts its transmission, which sends its segments and ends in DONE. -/
theorem commandRunsToCompletion : Obligations.CommandRunsToCompletion := by
  intro s a hv hl h0 h15 hr p hp
  have hsends := sends_transmission (s := s.startTransmission (packetValue a p.2.2)) hv rfl hl s.inputs
  rw [← State.startTransmission_eq_atSymbol, segsLength_transmissionSegs] at hsends
  obtain ⟨hrun, htrace⟩ := hsends hr
  refine ⟨_, exec_fiveCommands_legal hp ⟨h0, h15⟩ s, hrun, ?line⟩
  case line => exact (htrace State.lineOut fun _ _ _ h _ => h).trans (List.map_id _)

end Sys2Proof.Claims
end

section
/-! PROOFS. When a transmission changes the line (43_packet_framer.md R148) and how long a packet holds it high (R150). -/

namespace Sys2Proof.Machine

variable (c : Config) (p : Packet)

/-! ### Edge times -/

/-- Of two traces one after the other the second starts when the first ends. -/
theorem lineOpsFrom_append (t : Nat) (xs ys : List Segment) :
    lineOpsFrom t (xs ++ ys) = lineOpsFrom t xs ++ lineOpsFrom (t + segsUs xs) ys := by
  induction xs generalizing t with
  | nil => rfl
  | cons seg xs ih =>
    obtain ⟨high, d⟩ := seg
    have hsum : t + segsUs ((high, d) :: xs) = t + d + segsUs xs := (Nat.add_assoc t d (segsUs xs)).symm
    cases high with
    | false => exact hsum ▸ ih (t + d)
    | true => exact hsum ▸ congrArg _ (congrArg _ (ih (t + d)))

theorem segsUs_flatMap_range {d : Nat} {segs : Nat → List Segment} (hd : ∀ i, segsUs (segs i) = d) (n : Nat) :
    segsUs ((List.range n).flatMap segs) = d * n := by
  induction n with
  | zero => rfl
  | succ n ih => rw [List.range_succ, List.flatMap_append, segsUs_append, ih, List.flatMap_singleton, hd, Nat.mul_succ]

/-- Traces of one length, sent one after the other, start at its multiples. -/
theorem lineOpsFrom_flatMap_range {d : Nat} {segs : Nat → List Segment} (hd : ∀ i, segsUs (segs i) = d) (t n : Nat) :
    lineOpsFrom t ((List.range n).flatMap segs) = (List.range n).flatMap fun i => lineOpsFrom (t + d * i) (segs i) := by
  induction n with
  | zero => rfl
  | succ n ih =>
    rw [List.range_succ, List.flatMap_append, List.flatMap_append, lineOpsFrom_append, ih, segsUs_flatMap_range hd,
      List.flatMap_singleton, List.flatMap_singleton]

theorem lineOpsFrom_symSegs (t : Nat) (b : Bool) : lineOpsFrom t (symSegs c b) =
    [(.setHigh, t + lowUs c b), (.setLow, t + c.tSymUs)] := by
  rw [← lowUs_add_highUs c b, ← Nat.add_assoc]
  rfl

/-- A packet's symbols, bit by bit (43_packet_framer.md R142). -/
theorem packetSegs_eq_flatMap_range :
    packetSegs c p = (List.range 13).flatMap fun i => symSegs c (p.getLsbD (12 - i)) := by
  rw [packetSegs, bitsSegs, packetBits, List.flatMap_map]

theorem transmissionSegs_eq_flatMap_range : transmissionSegs c p = (List.range c.reps).flatMap fun _ => copySegs c p := by
  rw [transmissionSegs, List.flatMap_def, List.map_const', List.length_range]

/-- The line operations of one copy: none in its gap (43_packet_framer.md R148). -/
theorem lineOpsFrom_copySegs (t : Nat) : lineOpsFrom t (copySegs c p) = (List.finRange 13).flatMap fun i =>
    [(.setHigh, t + c.tSymUs * i.val + lowUs c (packetBit p i)), (.setLow, t + c.tSymUs * (i.val + 1))] := by
  have hgap (u : Nat) : lineOpsFrom u (gapSegs c) = [] := rfl
  rw [copySegs, lineOpsFrom_append, hgap, List.append_nil, packetSegs_eq_flatMap_range,
    lineOpsFrom_flatMap_range (fun _ => segsUs_symSegs c _), ← List.map_coe_finRange_eq_range, List.flatMap_map]
  simp only [lineOpsFrom_symSegs, packetBit, Nat.add_assoc, Nat.mul_succ]

/-! ### Time high -/

theorem segsHighUs_append (xs ys : List Segment) : segsHighUs (xs ++ ys) = segsHighUs xs + segsHighUs ys := by
  simp [segsHighUs]

/-- A trace is low for the rest of its length. -/
theorem segsHighUs_add_low (segs : List Segment) :
    segsHighUs segs + ((segs.filter fun seg => !seg.1).map Prod.snd).sum = segsUs segs := by
  induction segs with
  | nil => rfl
  | cons seg segs ih =>
    obtain ⟨high, d⟩ := seg
    have hsum : segsUs ((high, d) :: segs) = d + segsUs segs := rfl
    rw [hsum, ← ih]
    cases high with
    | false => exact Nat.add_left_comm _ _ _
    | true => exact Nat.add_assoc _ _ _

theorem segsHighUs_symSegs (b : Bool) : segsHighUs (symSegs c b) = highUs c b := rfl

/-- A one-bit is high for the short phase, a zero-bit for the long one (42_bit_transmitter.md R127, R128). -/
theorem segsHighUs_bitsSegs (bits : List Bool) : segsHighUs (bitsSegs c bits) =
    c.tShortUs * onesIn bits + c.tLongUs * (bits.length - onesIn bits) := by
  induction bits with
  | nil => rfl
  | cons b bits ih =>
    have hle : onesIn bits ≤ bits.length := List.count_le_length
    rw [bitsSegs_cons, segsHighUs_append, segsHighUs_symSegs, ih, List.length_cons]
    cases b with
    | false =>
      have hones : onesIn (false :: bits) = onesIn bits := List.count_cons_of_ne (by decide)
      rw [hones, Nat.succ_sub hle, Nat.mul_succ, highUs, if_neg (by decide)]
      omega
    | true =>
      have hones : onesIn (true :: bits) = onesIn bits + 1 := List.count_cons_self
      rw [hones, Nat.add_sub_add_right, Nat.mul_succ, highUs, if_pos rfl]
      omega

/-! ### One-bits of a packet -/

theorem onesIn_append (xs ys : List Bool) : onesIn (xs ++ ys) = onesIn xs + onesIn ys := List.count_append

/-- An encoded address in wire order (41_address_encoder.md R117). -/
def nibbleBits (n : Nibble) : List Bool := [n.getLsbD 3, n.getLsbD 2, n.getLsbD 1, n.getLsbD 0]

/-- A command code in wire order (20_memory.md R61). -/
def codeBits (code : Code) : List Bool :=
  [code.getLsbD 5, code.getLsbD 4, code.getLsbD 3, code.getLsbD 2, code.getLsbD 1, code.getLsbD 0]

theorem packetBits_buildPacket_append (n : Nibble) (code : Code) :
    packetBits (buildPacket n code) = [true, false] ++ (nibbleBits n ++ ([true] ++ codeBits code)) :=
  packetBits_buildPacket n code

/-- Every code of the Command Table has a single zero (20_memory.md R61). -/
theorem onesIn_codeBits {sel : Nat} {code : Code} (h : romRead sel = some code) : onesIn (codeBits code) = 5 := by
  have entries : ∀ i : Fin 5, ∀ code ∈ romRead i, onesIn (codeBits code) = 5 := by decide
  exact entries ⟨sel, Nat.lt_succ_of_le (le_of_romRead_eq_some h)⟩ code h

/-- The preamble holds one one-bit, the separator one, the code five, the address up to four (43_packet_framer.md R150). -/
theorem onesIn_buildPacket {sel : Nat} {code : Code} (h : romRead sel = some code) (n : Nibble) :
    7 ≤ onesIn (packetBits (buildPacket n code)) ∧ onesIn (packetBits (buildPacket n code)) ≤ 11 := by
  have haddress : onesIn (nibbleBits n) ≤ 4 := List.count_le_length
  have hpreamble : onesIn [true, false] = 1 := rfl
  have hseparator : onesIn [true] = 1 := rfl
  rw [packetBits_buildPacket_append, onesIn_append, onesIn_append, onesIn_append, hpreamble, hseparator, onesIn_codeBits h]
  omega

end Sys2Proof.Machine

namespace Sys2Proof.Claims
open Sys2Proof.Machine

/-- Settles O48: copies start at multiples of a repetition, their symbols at multiples of a symbol. -/
theorem edgeTimes : Obligations.EdgeTimes := by
  intro c p
  refine ⟨?edges, ?total⟩
  case edges =>
    rw [transmissionSegs_eq_flatMap_range, lineOpsFrom_flatMap_range (fun _ => segsUs_copySegs c p)]
    simp only [lineOpsFrom_copySegs, lowUs, Nat.zero_add]
  case total => rw [segsUs_transmissionSegs, Config.tTransmissionUs, Nat.mul_comm]

/-- Settles O49: the time high counts the packet's one-bits, of which the core's packets hold 7 to 11. -/
theorem timeHighPerPacket : Obligations.TimeHighPerPacket := by
  have hhigh (c : Config) (p : Packet) : segsHighUs (packetSegs c p) =
      c.tShortUs * onesIn (packetBits p) + c.tLongUs * (13 - onesIn (packetBits p)) :=
    packetBits_length p ▸ segsHighUs_bitsSegs c (packetBits p)
  refine ⟨fun c p => ⟨hhigh c p, ?low⟩, fun a sel code _ _ hc => ?built⟩
  case low => rw [segsHighUs_add_low, segsUs_packetSegs]
  case built =>
    obtain ⟨hmin, hmax⟩ := onesIn_buildPacket hc (addrEnc a)
    rw [hhigh, show Config.default.tShortUs = 370 from rfl, show Config.default.tLongUs = 775 from rfl]
    omega

end Sys2Proof.Claims
end

section
/-! PROOFS. What is in control of a cycle (44_protocol_sequencer.md R170): the request latched, the bit in progress, the
instruction placed; and that the request ports are in control of nothing but IDLE (R177). -/

namespace Sys2Proof.Machine

variable {s : State} {i : Instr}

/-- VALIDATING runs the command of the latched request. -/
theorem step_decodedRequest (hr : s.ports.rst = false) (hs : s.seqState = .validating)
    (hd : decodeRequest s.cmdQ s.addrQ = .ok i) : step s = exec i s.nextCycle := by
  rw [step_validating hr hs, (exec_decodeRequest s.nextCycle hd).1]

/-- PH_LOW and PH_HIGH run the symbol of the packet bit in progress. -/
theorem step_decodedSymbol (hr : s.ports.rst = false) (hs : s.seqState = .transmitting) (hp : s.txPhase ≠ .gap)
    (hc : s.repCnt < s.build.reps) : step s = exec (decodeSymbol s.currentBit) s.nextCycle := by
  rw [step_symbol hr hs hc hp, exec_decodeSymbol]

/-! ### The placed instruction (log 9) -/

theorem withoutReset_rst (inputs : List PortIn) : ((withoutReset inputs).headD PortIn.quiet).rst = false := by
  cases inputs <;> rfl

theorem State.placeInstr_decodeSymbol (b : Bool) (s : State) : s.placeInstr (decodeSymbol b) = s.placeSymbol b := by
  cases b <;> rfl

theorem State.placeInstr_of_encodeRequest {sel : Nat} {a : Int} (h : encodeRequest i = some (sel, a)) (s : State) :
    s.placeInstr i = s.placeRequest sel a := by
  cases i with
  | light | fanOff | fanLow | fanMedium | fanHigh => cases h; rfl
  | sendBit1 | sendBit0 => cases h

theorem State.placeSymbol_currentBit (b : Bool) (s : State) : (s.placeSymbol b).currentBit = b :=
  packetBit_setPacketBit s.pkt s.bitIdx b

/-- A request, wherever it stands, runs to a next state. -/
theorem exec_request_next {sel : Nat} {a : Int} (hd : decodeRequest sel a = .ok i) (s : State) :
    ∃ t, exec i s = .next t := by
  rw [(exec_decodeRequest s hd).1]
  obtain ⟨-, h⟩ | ⟨code, -, -, h⟩ | ⟨code, -, -, h⟩ := issue_cases sel a s <;> exact ⟨_, h⟩

/-- The next step runs the placed instruction, a command in VALIDATING or a symbol in PH_LOW, to a next state. -/
theorem step_placeInstr (hreps : 1 ≤ s.build.reps) (i : Instr) :
    step (s.placeInstr i) = exec i (s.placeInstr i).nextCycle ∧ ∃ t, exec i (s.placeInstr i).nextCycle = .next t := by
  have hr := withoutReset_rst s.inputs
  cases hreq : encodeRequest i with
  | none =>
    obtain ⟨b, rfl⟩ := eq_decodeSymbol_of_encodeRequest hreq
    rw [State.placeInstr_decodeSymbol]
    refine ⟨?step, lowCycle b (s.placeSymbol b).nextCycle, ?next⟩
    case step =>
      have hstep := step_decodedSymbol (s := s.placeSymbol b) hr rfl nofun hreps
      rwa [State.placeSymbol_currentBit] at hstep
    case next => rw [exec_decodeSymbol, symbolCycle_low rfl rfl]
  | some request =>
    obtain ⟨sel, a⟩ := request
    have hd := decodeRequest_of_encodeRequest hreq
    rw [State.placeInstr_of_encodeRequest hreq]
    exact ⟨step_decodedRequest (s := s.placeRequest sel a) hr rfl hd, exec_request_next hd _⟩

/-! ### The request ports (44_protocol_sequencer.md R177) -/

/-- Outside IDLE a cycle reads nothing of the current ports but `rst`. -/
theorem step_withSchedule_of_busy {p q : PortIn} (hs : s.seqState ≠ .idle) (h : p.rst = q.rst) (rest : List PortIn) :
    step (s.withSchedule (p :: rest)) = step (s.withSchedule (q :: rest)) := by
  have same : (s.withSchedule (p :: rest)).nextCycle = (s.withSchedule (q :: rest)).nextCycle := rfl
  have hp : (s.withSchedule (p :: rest)).ports.rst = q.rst := h
  have hq : (s.withSchedule (q :: rest)).ports.rst = q.rst := rfl
  cases hr : q.rst with
  | true => rw [step_reset (hp.trans hr), step_reset (hq.trans hr), same]
  | false =>
    rw [hr] at hp hq
    cases hseq : s.seqState with
    | idle => exact absurd hseq hs
    | validating =>
      rw [step_validating hp hseq, step_validating hq hseq]
      rfl
    | transmitting =>
      by_cases hc : s.repCnt < s.build.reps
      · obtain ⟨t, ht, hstep⟩ := step_transmitting hq hseq hc
        rw [ht]
        exact step_of_phaseStep hp hseq hc hstep
      · have hstuck : s.build.reps ≤ s.repCnt := by omega
        rw [step_stuck hp hseq hstuck, step_stuck hq hseq hstuck]
    | rejected | done =>
      have hfinish : s.seqState = .rejected ∨ s.seqState = .done := by simp [hseq]
      rw [step_finish hp hfinish, step_finish hq hfinish, same]

end Sys2Proof.Machine

namespace Sys2Proof.Claims
open Sys2Proof.Machine

/-- Settles O24: the two places where a cycle finds its instruction. -/
theorem stepRunsDecodedInstruction : Obligations.StepRunsDecodedInstruction := by
  intro s i hr
  refine ⟨fun hs hd => step_decodedRequest hr hs hd, fun hs hp hc hd => ?symbol⟩
  case symbol =>
    rw [decode_single] at hd
    cases hd
    exact step_decodedSymbol hr hs hp hc

/-- Settles O25: a word that decodes places its instruction. -/
theorem placedWordRuns : Obligations.PlacedWordRuns := by
  intro s nbits w i hreps hw
  have hplaced : s.withFetchWord nbits w = s.placeInstr i := by rw [State.withFetchWord, hw]
  rw [hplaced]
  exact step_placeInstr hreps i

/-- Settles O33: two values of the ports leave the same schedule behind. -/
theorem busyIgnoresRequestPorts : Obligations.BusyIgnoresRequestPorts :=
  fun _ _ _ rest hs h => step_withSchedule_of_busy hs h rest

/-- Settles O15: the command's packet is its arithmetic, and it starts the transmission. -/
theorem commandStartsTransmission : Obligations.CommandStartsTransmission :=
  fun s _ h0 h15 _ hp => exec_fiveCommands_legal hp ⟨h0, h15⟩ s

/-- Settles O27: the Command Table is consulted before the address. -/
theorem unknownCommandIsReportedFirst : Obligations.UnknownCommandIsReportedFirst :=
  fun _ hr hs hc => step_unknownCommand hr hs hc

/-- Settles O29: the invariant gives the line and the result, and the return to IDLE reads no port. -/
theorem terminalStatesLastOneCycle : Obligations.TerminalStatesLastOneCycle := by
  intro s hinv hs
  have hvalid : s.respValid = true := State.respValid_iff.2 hs
  have hresp := State.response_of_respValid hvalid
  refine ⟨hvalid, hinv.line_eq_false ?busy, fun hd => ?done, fun hrej => ?rejected, fun hr => step_finish hr hs⟩
  case busy => obtain hs | hs := hs <;> simp [hs]
  case done => rw [hresp, hinv.doneOk hd]
  case rejected =>
    rw [hresp]
    cases hcode : s.respCode with
    | ok => exact absurd hcode (hinv.rejectedError hrej)
    | commandNotFound => exact .inl rfl
    | addressOutOfRange => exact .inr rfl

end Sys2Proof.Claims
end

section
/-! PROOFS. A request from its acceptance to its answer (44_protocol_sequencer.md R178 to R180), against `SendCommand`
(R163), and the low stretch between two transmissions (R186). -/

namespace Sys2Proof.Machine

variable {s t u : State} {a : Int} {name : String} {r : RespCode} {segs : List Segment} {c : Config} {n : Nat}

/-! ### `SendCommand` -/

theorem sendCommand_unknown (c : Config) (a : Int) (h : 4 < selOfName name) :
    sendCommand c a name = (.commandNotFound, []) := by
  rw [sendCommand, lookup, romRead_eq_none.2 h]

theorem sendCommand_illegal {code : Code} (c : Config) (hc : lookup name = some code) (ha : ¬(0 ≤ a ∧ a ≤ 15)) :
    sendCommand c a name = (.addressOutOfRange, []) := by
  rw [sendCommand, hc, encodeAddress_outOfRange ha]

theorem sendCommand_legal {code : Code} (c : Config) (hc : lookup name = some code) (ha : 0 ≤ a ∧ a ≤ 15) :
    sendCommand c a name = (.ok, transmissionSegs c (buildPacket (addrEnc a) code)) := by
  rw [sendCommand, hc, encodeAddress_legal ha]
  rfl

theorem exists_romRead_of_le {sel : Nat} (h : sel ≤ 4) : ∃ code, romRead sel = some code := by
  cases hc : romRead sel with
  | none => exact absurd (romRead_eq_none.1 hc) (Nat.not_lt.2 h)
  | some code => exact ⟨code, rfl⟩

/-! ### Outputs by the sequencer's state (10_state.md R31, R32) -/

theorem State.reqReady_eq_false (h : s.seqState ≠ .idle) : s.reqReady = false := by
  simp [State.reqReady, h]

theorem State.busy_eq_false (h : s.seqState = .idle) : s.busy = false := by
  simp [State.busy, h]

theorem State.response_of_idle (h : s.seqState = .idle) : s.response = none :=
  State.response_of_not_respValid (by simp [State.respValid, h])

theorem State.response_of_transmitting (h : s.seqState = .transmitting) : s.response = none :=
  State.response_of_not_respValid (by simp [State.respValid, h])

/-- A response is given in a busy cycle. -/
theorem State.not_idle_of_response (h : s.response = some r) : s.seqState ≠ .idle := by
  intro hidle
  rw [State.response_of_idle hidle] at h
  cases h

theorem readsOutputsOnly_lineOut : ReadsOutputsOnly State.lineOut := fun _ _ _ hl _ => hl

theorem readsOutputsOnly_reqReady : ReadsOutputsOnly State.reqReady := fun _ _ hs _ _ => congrArg (· == .idle) hs

theorem readsOutputsOnly_busy : ReadsOutputsOnly State.busy := fun u v hs hl hr => by
  rw [State.busy_eq_not_reqReady, State.busy_eq_not_reqReady, readsOutputsOnly_reqReady u v hs hl hr]

theorem readsOutputsOnly_response : ReadsOutputsOnly State.response := fun u v hs _ hr => by
  rw [State.response, State.response, State.respValid, State.respValid, hs, hr]

/-! ### The first cycles of a run -/

theorem traceOf_one {α : Type} (f : State → α) (s : State) : traceOf f 1 s = [f s] := by
  cases h : step s <;> simp [traceOf, h]

/-- One cycle of a stretch without a reset leaves the rest of it. -/
theorem State.NoReset.tail (h : s.NoReset (n + 1)) (ht : t.inputs = s.inputs.tail) : t.NoReset n :=
  .drop (m := 1) (Nat.add_comm n 1 ▸ h) (ht.trans List.drop_one.symm)

/-! ### Acceptance and validation -/

/-- A request presented in IDLE is latched (44_protocol_sequencer.md R171). -/
theorem step_accepts {p : PortIn} (hs : s.seqState = .idle) (hp : s.ports = p) (hr : p.rst = false)
    (hvalid : p.reqValid = true) : step s = .next (s.nextCycle.latchRequest p) := by
  subst hp
  rw [step_idle hr hs, State.acceptRequest, if_pos hvalid]

/-- A request with an unknown command, or a known one and an illegal address, raises its error (60_exceptions.md R191, R192). -/
theorem step_raises (hr : s.ports.rst = false) (hs : s.seqState = .validating)
    (h : (4 < s.cmdQ ∧ r = .commandNotFound) ∨ (s.cmdQ ≤ 4 ∧ ¬(0 ≤ s.addrQ ∧ s.addrQ ≤ 15) ∧ r = .addressOutOfRange)) :
    ∃ e : ErrorKind, e.respCode = r ∧ step s = .next (s.nextCycle.raise e) := by
  obtain ⟨hc, rfl⟩ | ⟨hc, ha, rfl⟩ := h
  · exact ⟨.commandNotFound, rfl, step_unknownCommand hr hs hc⟩
  · obtain ⟨code, hcode⟩ := exists_romRead_of_le hc
    exact ⟨.addressOutOfRange, rfl, (step_validating hr hs).trans (issue_badAddress _ hcode ha)⟩

/-- The selector of a name arrives unchanged: 7 fits a port of 3 bits (30_encoding.md R82). -/
theorem sampleCmd_selOfName (hc : 3 ≤ c.cmdW) (name : String) : sampleCmd c (selOfName name) = selOfName name := by
  have hpow : 2 ^ 3 ≤ 2 ^ c.cmdW := Nat.pow_le_pow_right (by decide) hc
  have hsel := selOfName_le_or_eq name
  exact Nat.mod_eq_of_lt (by omega)

/-! ### From validation to the answer -/

/-- The machine sends `segs` from `u` on, in TRANSMITTING if there are any, and answers `r` in `t`, the line low. -/
structure Answers (c : Config) (u : State) (segs : List Segment) (r : RespCode) (t : State) : Prop where
  sends : Sends c u segs t
  sending : segs ≠ [] → u.seqState = .transmitting
  response : t.response = some r
  low : t.line = false

theorem segsLength_nil (c : Config) : segsLength c [] = 0 := Nat.zero_mul _

theorem Sends.nil (c : Config) (u : State) : Sends c u [] u := by
  intro inputs _
  rw [segsLength_nil]
  exact ⟨rfl, fun _ _ => rfl⟩

theorem segsCycles_length (c : Config) (segs : List Segment) : (segsCycles c segs).length = segsLength c segs := by
  induction segs with
  | nil => exact (segsLength_nil c).symm
  | cons seg segs ih =>
    have hcycles : segsCycles c (seg :: segs) = List.replicate (seg.2 * c.clkMhz) seg.1 ++ segsCycles c segs := rfl
    have hlength : segsLength c (seg :: segs) = seg.2 * c.clkMhz + segsLength c segs := segsLength_append c [seg] segs
    rw [hcycles, hlength, List.length_append, List.length_replicate, ih]

/-- The validation of a request goes on as `SendCommand` says, if the latched selector is the name's and the latched
address is judged as the integer meant (41_address_encoder.md R119). -/
theorem step_answers (hv : s.build.Valid) (hr : s.ports.rst = false) (hs : s.seqState = .validating) (hl : s.line = false)
    (hcmd : s.cmdQ = selOfName name) (hjudged : (0 ≤ s.addrQ ∧ s.addrQ ≤ 15) ↔ (0 ≤ a ∧ a ≤ 15))
    (haddr : 0 ≤ a ∧ a ≤ 15 → s.addrQ = a) (hsend : sendCommand s.build a name = (r, segs)) :
    ∃ u t, step s = .next u ∧ u.inputs = s.inputs.tail ∧ Answers s.build u segs r t := by
  have rejected (hsegs : segs = []) (h : (4 < s.cmdQ ∧ r = .commandNotFound) ∨
      (s.cmdQ ≤ 4 ∧ ¬(0 ≤ s.addrQ ∧ s.addrQ ≤ 15) ∧ r = .addressOutOfRange)) :
      ∃ u t, step s = .next u ∧ u.inputs = s.inputs.tail ∧ Answers s.build u segs r t := by
    subst hsegs
    obtain ⟨e, rfl, hstep⟩ := step_raises hr hs h
    exact ⟨_, _, hstep, rfl, .nil _ _, (absurd rfl ·), rfl, hl⟩
  cases hc : lookup name with
  | none =>
    have hsel : 4 < selOfName name := romRead_eq_none.1 hc
    rw [sendCommand_unknown _ _ hsel] at hsend
    cases hsend
    exact rejected rfl (.inl ⟨hcmd ▸ hsel, rfl⟩)
  | some code =>
    have hrom : romRead s.cmdQ = some code := hcmd ▸ hc
    by_cases ha : 0 ≤ a ∧ a ≤ 15
    · rw [sendCommand_legal _ hc ha, ← haddr ha] at hsend
      cases hsend
      have hsends := sends_transmission (s := s.nextCycle.startTransmission (buildPacket (addrEnc s.addrQ) code)) hv rfl hl
      exact ⟨_, _, (step_validating hr hs).trans (issue_valid s.nextCycle hrom (hjudged.2 ha)), rfl, hsends,
        fun _ => rfl, rfl, hl⟩
    · rw [sendCommand_illegal _ hc ha] at hsend
      cases hsend
      exact rejected rfl (.inr ⟨le_of_romRead_eq_some hrom, mt hjudged.1 ha, rfl⟩)

theorem Answers.run (h : Answers c u segs r t) (hr : u.NoReset (segsLength c segs)) :
    runCycles (segsLength c segs) u = .next (t.withSchedule (u.inputs.drop (segsLength c segs))) :=
  (h.sends u.inputs hr).1

/-- The line shows exactly the segments (44_protocol_sequencer.md R178). -/
theorem Answers.lineTrace_eq (h : Answers c u segs r t) (hr : u.NoReset (segsLength c segs)) :
    lineTrace (segsLength c segs) u = segsCycles c segs :=
  ((h.sends u.inputs hr).2 State.lineOut readsOutputsOnly_lineOut).trans (List.map_id _)

/-- An output that has one value throughout TRANSMITTING shows it until the answer. -/
theorem Answers.traceOf_eq {α : Type} {f : State → α} {x : α} (h : Answers c u segs r t)
    (hr : u.NoReset (segsLength c segs)) (hf : ReadsOutputsOnly f) (hx : ∀ w : State, w.seqState = .transmitting → f w = x) :
    traceOf f (segsLength c segs + 1) u = List.replicate (segsLength c segs) x ++ [f t] := by
  obtain ⟨hrun, htrace⟩ := h.sends u.inputs hr
  have hsending : ∀ level ∈ segsCycles c segs, f (u.lineWrite level) = x := by
    intro level hlevel
    have hsegs : segs ≠ [] := by
      rintro rfl
      cases hlevel
    exact hx _ (h.sending hsegs)
  have hsegments : traceOf f (segsLength c segs) u = List.replicate (segsLength c segs) x :=
    (htrace f hf).trans (segsCycles_length c segs ▸ List.map_eq_replicate_iff.2 hsending)
  have hanswer : f (t.withSchedule (u.inputs.drop (segsLength c segs))) = f t := hf _ _ rfl rfl rfl
  rw [traceOf_add f (h.run hr), hsegments, traceOf_one, hanswer]

/-! ### Waiting for the next transmission (44_protocol_sequencer.md R186) -/

/-- The line keeps its level through the first cycles of a phase, the last one included. -/
theorem lineTrace_within_phase (hv : s.build.Valid) (hs : s.seqState = .transmitting) (hc : s.repCnt < s.build.reps)
    (ht : s.timer = 0) (hn : n ≤ phaseCycles s.build s.currentBit s.txPhase) (hr : s.NoReset n) :
    lineTrace n s = List.replicate n s.line := by
  cases n with
  | zero => rfl
  | succ k =>
    obtain ⟨hrun, htrace⟩ := run_counts k hs hc (by omega) (phaseCycles_bounds hv _ _).2 (hr.mono (by omega))
    have hcounting := htrace State.lineOut fun _ _ hl _ => hl
    rw [lineTrace, traceOf_add _ hrun, hcounting, traceOf_one, List.replicate_succ']
    rfl

/-- Every packet's first bit is a one (43_packet_framer.md R141). -/
theorem packetBit_buildPacket_zero (address : Nibble) (code : Code) : packetBit (buildPacket address code) 0 = true := by
  obtain ⟨hpreamble, -⟩ := buildPacket_fields address code
  exact getLsbD_of_extractLsb'_eq hpreamble (i := 1) (by decide)

/-- The low phase of a packet's first bit, to its last cycle. -/
theorem lineTrace_startTransmission {address : Nibble} {code : Code} (hv : s.build.Valid) (hl : s.line = false)
    (hn : n ≤ s.build.nLong) (hr : (s.startTransmission (buildPacket address code)).NoReset n) :
    lineTrace n (s.startTransmission (buildPacket address code)) = List.replicate n false := by
  obtain ⟨-, -, -, -, -, hreps⟩ := Config.Valid.cycles hv
  have hbit : (s.startTransmission (buildPacket address code)).currentBit = true := packetBit_buildPacket_zero address code
  have hphase : phaseCycles s.build (s.startTransmission (buildPacket address code)).currentBit .low = s.build.nLong := by
    rw [hbit]
    rfl
  have htrace := lineTrace_within_phase (s := s.startTransmission (buildPacket address code)) hv rfl hreps rfl
    (hn.trans hphase.ge) hr
  rwa [State.startTransmission_line, hl] at htrace

/-- The cycles before a transmission can start, at the least: the answer's, IDLE's, VALIDATING's. -/
def State.cyclesToStart (s : State) : Nat :=
  match s.seqState with
  | .idle => 2
  | .validating => 1
  | .transmitting => 0
  | .rejected => 3
  | .done => 3

/-- A low line stays low until a transmission starts and through the long low phase of its first bit. -/
theorem lineTrace_until_firstHigh (hv : s.build.Valid) (hs : s.seqState ≠ .transmitting) (hl : s.line = false)
    (hn : n ≤ s.cyclesToStart + s.build.nLong) (hr : s.NoReset n) : lineTrace n s = List.replicate n false := by
  induction n generalizing s with
  | zero => rfl
  | succ n ih =>
    have hrst := hr.ports (by omega)
    have low {t : State} (hstep : step s = .next t) (hrest : lineTrace n t = List.replicate n false) :
        lineTrace (n + 1) s = List.replicate (n + 1) false := by
      rw [lineTrace, traceOf_succ _ hstep, State.lineOut, hl, List.replicate_succ]
      exact congrArg _ hrest
    have waits {t : State} (hstep : step s = .next t) (hb : t.build = s.build) (hin : t.inputs = s.inputs.tail)
        (hq : t.seqState ≠ .transmitting) (hlow : t.line = false) (hle : s.cyclesToStart ≤ t.cyclesToStart + 1) :
        lineTrace (n + 1) s = List.replicate (n + 1) false :=
      low hstep (ih (hb ▸ hv) hq hlow (by rw [hb]; omega) (hr.tail hin))
    cases hseq : s.seqState with
    | idle =>
      have hcycles : s.cyclesToStart = 2 := by rw [State.cyclesToStart, hseq]
      have hstep := step_idle hrst hseq
      obtain ⟨-, he⟩ | ⟨-, he⟩ := s.nextCycle.acceptRequest_cases s.ports <;> rw [he] at hstep
      · exact waits hstep rfl rfl nofun hl hcycles.le
      · exact waits hstep rfl rfl hs hl (Nat.le_succ _)
    | validating =>
      have hcycles : s.cyclesToStart = 1 := by rw [State.cyclesToStart, hseq]
      have hstarts : n ≤ s.nextCycle.build.nLong := by rw [State.nextCycle_build]; omega
      have hstep := step_validating hrst hseq
      obtain ⟨-, hi⟩ | ⟨code, -, -, hi⟩ | ⟨code, -, -, hi⟩ := issue_cases s.cmdQ s.addrQ s.nextCycle <;> rw [hi] at hstep
      · exact waits hstep rfl rfl nofun hl (by omega)
      · exact waits hstep rfl rfl nofun hl (by omega)
      · exact low hstep (lineTrace_startTransmission hv hl hstarts (hr.tail rfl))
    | transmitting => exact absurd hseq hs
    | rejected | done =>
      have hcycles : s.cyclesToStart = 3 := by rw [State.cyclesToStart, hseq]
      exact waits (step_finish hrst (by simp [hseq])) rfl rfl nofun hl hcycles.le

end Sys2Proof.Machine

namespace Sys2Proof.Claims
open Sys2Proof.Machine

/-- Settles O46: the command is looked up first, then the address is encoded, and the packet is its arithmetic. -/
theorem sendCommandResults : Obligations.SendCommandResults := by
  intro c a name
  refine ⟨sendCommand_unknown c a, fun hsel ha => ?illegal, fun code hc h0 h15 => ?legal⟩
  case illegal =>
    obtain ⟨code, hc⟩ := exists_romRead_of_le hsel
    exact sendCommand_illegal c hc ha
  case legal => rw [sendCommand_legal c hc ⟨h0, h15⟩, packetValue_eq_buildPacket ⟨h0, h15⟩]

/-- Settles O41: acceptance, the error, the return to IDLE. -/
theorem rejectedRequestTakesThreeCycles : Obligations.RejectedRequestTakesThreeCycles := by
  intro s p rest r hs hin hvalid hr hreject
  have hports : s.ports = p := by rw [State.ports, hin]; rfl
  have haccept := step_accepts hs hports (hports ▸ hr.ports (by decide)) hvalid
  have hr1 : (s.nextCycle.latchRequest p).NoReset 2 := hr.tail rfl
  obtain ⟨e, rfl, hraise⟩ := step_raises (hr1.ports (by decide)) rfl hreject
  have hr2 : ((s.nextCycle.latchRequest p).nextCycle.raise e).NoReset 1 := hr1.tail rfl
  have hreturn := step_finish (hr2.ports (by decide)) (.inl rfl)
  have htrace {α : Type} (f : State → α) : traceOf f 3 s =
      [f s, f (s.nextCycle.latchRequest p), f ((s.nextCycle.latchRequest p).nextCycle.raise e)] := by
    rw [traceOf_succ f haccept, traceOf_succ f hraise, traceOf_one]
  refine ⟨?run, ?response, htrace State.lineOut, ?busy⟩
  case run =>
    have hrest : s.inputs.tail.tail.tail = rest.drop 2 := by
      rw [hin, List.tail_cons, ← List.drop_one, ← List.drop_one, List.drop_drop]
    rw [runCycles_succ haccept, runCycles_succ hraise, runCycles_succ hreturn, hs, ← hrest]
    rfl
  case response =>
    rw [htrace, State.response_of_idle hs]
    rfl
  case busy =>
    rw [htrace, State.busy_eq_false hs]
    rfl

/-- A request made by name and integer address, once accepted, is answered as `SendCommand` says: the ports bring the
name's selector unchanged and an address that is judged as the integer (41_address_encoder.md R119). -/
theorem step_latchRequest_answers {s : State} {a : Int} {name : String} {r : RespCode} {segs : List Segment}
    (hv : s.build.Valid) (hl : s.line = false) (hr : (s.latchRequest (PortIn.send s.build a name)).ports.rst = false)
    (hsend : sendCommand s.build a name = (r, segs)) :
    ∃ u t, step (s.latchRequest (PortIn.send s.build a name)) = .next u ∧ u.inputs = s.inputs.tail ∧
      Answers s.build u segs r t := by
  obtain ⟨hjudged, hlegal⟩ := presentedAddressIsJudgedWhole s.build a hv
  rw [addrValid_iff] at hjudged
  have hcmdW : 3 ≤ s.build.cmdW := by
    obtain ⟨-, -, hcmdW, -⟩ := hv
    exact hcmdW
  exact step_answers (s := s.latchRequest (PortIn.send s.build a name)) hv hr rfl hl (sampleCmd_selOfName hcmdW name) hjudged
    (fun ⟨h0, h15⟩ => hlegal h0 h15) hsend

/-- Settles O42: two cycles of acceptance and validation, then the segments, then the answer. -/
theorem requestMatchesSendCommand : Obligations.RequestMatchesSendCommand := by
  rintro s a name rest r segs _ hv hs hl hin hsend rfl hr
  have hcycles : 2 + segsUs segs * s.build.clkMhz = segsLength s.build segs + 2 := Nat.add_comm _ _
  rw [hcycles] at hr ⊢
  have hports : s.ports = PortIn.send s.build a name := by rw [State.ports, hin]; rfl
  have haccept := step_accepts hs hports rfl rfl
  have hr1 : (s.nextCycle.latchRequest (PortIn.send s.build a name)).NoReset (segsLength s.build segs + 1) := hr.tail rfl
  obtain ⟨u, t, hvalidate, hin1, hanswers⟩ : ∃ u t, step (s.nextCycle.latchRequest (PortIn.send s.build a name)) = .next u ∧
      u.inputs = s.inputs.tail.tail ∧ Answers s.build u segs r t :=
    step_latchRequest_answers (s := s.nextCycle) hv hl (hr1.ports (by omega)) hsend
  have hr2 : u.NoReset (segsLength s.build segs) := hr1.tail hin1
  have htrace {α : Type} {f : State → α} {x : α} (hf : ReadsOutputsOnly f)
      (hx : ∀ w : State, w.seqState = .transmitting → f w = x) : traceOf f (segsLength s.build segs + 2 + 1) s =
      f s :: f (s.nextCycle.latchRequest (PortIn.send s.build a name)) ::
        (List.replicate (segsLength s.build segs) x ++ [f t]) := by
    rw [traceOf_succ f haccept, traceOf_succ f hvalidate, hanswers.traceOf_eq hr2 hf hx]
  have hbusy : t.seqState ≠ .idle := State.not_idle_of_response hanswers.response
  refine ⟨t.withSchedule (u.inputs.drop (segsLength s.build segs)), ?run, hanswers.response, hanswers.low, ?line, ?busy,
    ?ready, ?responses⟩
  case run => rw [runCycles_succ haccept, runCycles_succ hvalidate, hanswers.run hr2]
  case line =>
    have hidle : s.lineOut = false := hl
    have hvalidating : (s.nextCycle.latchRequest (PortIn.send s.build a name)).lineOut = false := hl
    rw [lineTrace, traceOf_succ _ haccept, traceOf_succ _ hvalidate, hidle, hvalidating, ← hanswers.lineTrace_eq hr2]
    rfl
  case busy =>
    rw [htrace readsOutputsOnly_busy fun w hw => State.busy_iff.2 (by simp [hw]), State.busy_eq_false hs,
      State.busy_iff.2 hbusy, List.replicate_succ, List.replicate_succ']
    rfl
  case ready =>
    rw [htrace readsOutputsOnly_reqReady fun w hw => State.reqReady_eq_false (by simp [hw]), State.reqReady_iff.2 hs,
      State.reqReady_eq_false hbusy, List.replicate_succ, List.replicate_succ']
    rfl
  case responses =>
    rw [htrace readsOutputsOnly_response fun w hw => State.response_of_transmitting hw, State.response_of_idle hs,
      hanswers.response]
    rfl

/-- Settles O45: the gap, then the wait for the next transmission, which starts with a long low phase. -/
theorem gapBetweenTransmissions : Obligations.GapBetweenTransmissions := by
  intro s hv hs hp ht hl hc hr
  obtain ⟨hrun, htrace⟩ := run_gap hv hs (by omega) hp ht rfl (hr.mono (by omega))
  rw [if_pos hc] at hrun
  rw [Nat.add_assoc] at hr ⊢
  have hgap : traceOf State.lineOut s.build.nGap s = List.replicate s.build.nGap false :=
    (htrace State.lineOut readsOutputsOnly_lineOut).trans (congrArg _ hl)
  have hwait := lineTrace_until_firstHigh
    (s := { s with timer := 0, respCode := .ok, seqState := .done, inputs := s.inputs.drop s.build.nGap })
    hv nofun hl (Nat.le_refl (3 + s.build.nLong)) (hr.drop rfl)
  rw [lineTrace, traceOf_add _ hrun, hgap, List.replicate_add]
  exact congrArg _ hwait

end Sys2Proof.Claims
end

section
/-! PROOFS. What can go wrong inside the core (60_exceptions.md): a command's illegal address is an answer (R192, R193),
and short of a copy count past `R` every cycle has a next state (R198). -/

namespace Sys2Proof.Machine

variable {s : State}

/-- A validation goes on with its request or reports an error, it never stops (44_protocol_sequencer.md R172). -/
theorem issue_exists_next (sel : Nat) (a : Int) (s : State) : ∃ t, issue sel a s = .next t := by
  obtain ⟨-, h⟩ | ⟨_, -, -, h⟩ | ⟨_, -, -, h⟩ := issue_cases sel a s <;> exact ⟨_, h⟩

/-- Only TRANSMITTING can lack a next state, for want of a copy to send (93_implementation_defined.md U4). -/
theorem step_exists_next (hcopy : s.seqState = .transmitting → s.repCnt < s.build.reps) : ∃ t, step s = .next t := by
  cases hr : s.ports.rst with
  | true => exact ⟨_, step_reset hr⟩
  | false =>
    cases hs : s.seqState with
    | idle => exact ⟨_, step_idle hr hs⟩
    | validating =>
      rw [step_validating hr hs]
      exact issue_exists_next _ _ _
    | transmitting =>
      obtain ⟨t, ht, -⟩ := step_transmitting hr hs (hcopy hs)
      exact ⟨t, ht⟩
    | rejected => exact ⟨_, step_finish hr (.inl hs)⟩
    | done => exact ⟨_, step_finish hr (.inr hs)⟩

end Sys2Proof.Machine

namespace Sys2Proof.Claims
open Sys2Proof.Machine

/-- A command with an illegal address raises AddressOutOfRange: its selector is known, so the address is at fault
(60_exceptions.md R192). -/
theorem exec_fiveCommands_illegal {a : Int} {p : Nat × Instr × Nat} (hp : p ∈ fiveCommands a)
    (ha : ¬(0 ≤ a ∧ a ≤ 15)) (s : State) : exec p.2.1 s = .next (s.raise .addressOutOfRange) := by
  obtain ⟨code, hc, -⟩ := romRead_fiveCommands hp
  obtain ⟨hexec, -⟩ := exec_fiveCommands hp s
  rw [hexec, issue_badAddress s hc ha]

/-- Settles O39: the position the invariant gives (10_state.md R53) is within the `R` copies. -/
theorem invariantStatesAlwaysStep : Obligations.InvariantStatesAlwaysStep :=
  fun _ hinv => step_exists_next fun hs => (hinv.position hs).copy

/-- Settles O16: raising the error writes `resp_code` and `seq_state` only. -/
theorem commandRejectsAddress : Obligations.CommandRejectsAddress :=
  fun s _ ha _ hp => exec_fiveCommands_illegal hp ha s

end Sys2Proof.Claims
end

section
/-! PROOFS. The one place where the core stops: TRANSMITTING with no copy left to send, which the spec calls unreachable
(93_implementation_defined.md U4). -/

namespace Sys2Proof.Machine

variable {s : State}

/-- The cycles for which the spec gives no step (93_implementation_defined.md U4). -/
def State.NoStepGiven (s : State) : Prop :=
  s.ports.rst = false ∧ s.seqState = .transmitting ∧ s.build.reps ≤ s.repCnt

theorem step_of_noStepGiven (h : s.NoStepGiven) : step s = .fault .unreachableRepCnt := by
  obtain ⟨hr, hs, hc⟩ := h
  exact step_stuck hr hs hc

/-- Every other cycle has a next state: a reset always does, and without one a copy is left to send. -/
theorem step_exists_next_of_not_noStepGiven (h : ¬s.NoStepGiven) : ∃ t, step s = .next t := by
  cases hr : s.ports.rst with
  | true => exact ⟨_, step_reset hr⟩
  | false => exact step_exists_next fun hs => Nat.lt_of_not_le fun hc => h ⟨hr, hs, hc⟩

end Sys2Proof.Machine

namespace Sys2Proof.Claims
open Sys2Proof.Machine

/-- Settles O40: a cycle faults where no step is given and has a next state everywhere else, so none is refused. -/
theorem stopsOnlyWithRepCntOutOfRange : Obligations.StopsOnlyWithRepCntOutOfRange := by
  intro s
  by_cases h : s.NoStepGiven
  · have hstep := step_of_noStepGiven h
    exact ⟨by simp [hstep], fun _ => h, fun _ => ⟨_, hstep⟩⟩
  · obtain ⟨t, hstep⟩ := step_exists_next_of_not_noStepGiven h
    exact ⟨by simp [hstep], fun ⟨_, hfault⟩ => by simp [hstep] at hfault, fun hstuck => absurd hstuck h⟩

end Sys2Proof.Claims
end
